-- ==== Sys2Proof/Word.lean ====
section
/-! DEFINITION. The word types of the machine: the widths of 00_scope.md R8 and the field widths of
30_encoding.md R71. -/

namespace Sys2Proof

/-- A byte: a memory cell, a general register, a timer, the immediate `kk` (R21, R32, R50, R73). -/
abbrev Byte := BitVec 8

/-- A 16-bit word: `I`, `pc`, a stack entry, an opcode (R25, R27, R30, R70). -/
abbrev Word := BitVec 16

/-- The 12-bit absolute address `nnn` (R71, R74). -/
abbrev Addr := BitVec 12

/-- A general register's number, 0 to 15 (R21, R76). -/
abbrev Reg := Fin 16

end Sys2Proof
end

