-- ==== Sys2Proof/Syntax.lean ====
section
/-! DEFINITION. The instructions of 30_encoding.md R78, one constructor per row, in the row order of the opcode map. -/

namespace Sys2Proof

/-- The decoded instruction: "one tag per row of rule R78 with that row's fields" (R89). The pattern stands before each
constructor; `x`, `y` are register numbers, `kk` a byte, `nnn` an address and `n` a count (R71). -/
inductive Instr where
  /-- `00E0` CLS -/
  | cls
  /-- `00EE` RET -/
  | ret
  /-- `1nnn` JP nnn -/
  | jp (nnn : Addr)
  /-- `2nnn` CALL nnn -/
  | call (nnn : Addr)
  /-- `3xkk` SE Vx, kk -/
  | seImm (x : Reg) (kk : Byte)
  /-- `4xkk` SNE Vx, kk -/
  | sneImm (x : Reg) (kk : Byte)
  /-- `6xkk` LD Vx, kk -/
  | ldImm (x : Reg) (kk : Byte)
  /-- `7xkk` ADD Vx, kk -/
  | addImm (x : Reg) (kk : Byte)
  /-- `8xy0` LD Vx, Vy -/
  | ldReg (x y : Reg)
  /-- `8xy2` AND Vx, Vy -/
  | andReg (x y : Reg)
  /-- `8xy4` ADD Vx, Vy -/
  | addReg (x y : Reg)
  /-- `8xy5` SUB Vx, Vy -/
  | subReg (x y : Reg)
  /-- `8xy6` SHR Vx; the field `y` is decoded and not used (R88), and kept so that no bit of the word is lost. -/
  | shr (x y : Reg)
  /-- `9xy0` SNE Vx, Vy -/
  | sneReg (x y : Reg)
  /-- `Annn` LD I, nnn -/
  | ldIndex (nnn : Addr)
  /-- `Cxkk` RND Vx, kk -/
  | rndImm (x : Reg) (kk : Byte)
  /-- `Dxyn` DRW Vx, Vy, n -/
  | drw (x y : Reg) (n : Fin 16)
  /-- `Ex9E` SKP Vx -/
  | skp (x : Reg)
  /-- `ExA1` SKNP Vx -/
  | sknp (x : Reg)
  /-- `Fx07` LD Vx, DT -/
  | ldFromDt (x : Reg)
  /-- `Fx15` LD DT, Vx -/
  | ldToDt (x : Reg)
  /-- `Fx0A` LD Vx, K -/
  | ldKey (x : Reg)
  /-- `Fx1E` ADD I, Vx -/
  | addIndex (x : Reg)
  /-- `Fx29` LD F, Vx -/
  | ldFont (x : Reg)
  /-- `Fx33` LD B, Vx -/
  | ldBcd (x : Reg)
  /-- `Fx55` LD [I], Vx -/
  | storeRegs (x : Reg)
  /-- `Fx65` LD Vx, [I] -/
  | loadRegs (x : Reg)
  deriving DecidableEq, Repr

end Sys2Proof
end

