-- ==== Sys2Proof/WellFormed.lean ====
section
/-! DEFINITION. Which instructions are well formed: every operand fits the field that 30_encoding.md R71 and R72 give
it, inside the 16 bits of the word, and no two operands share a bit. -/

namespace Sys2Proof

/-- An operand and the bits of the opcode that hold it: bits `lo + width - 1` down to `lo` (R10, R71). -/
structure Field where
  name : String
  lo : Nat
  width : Nat
  value : Nat
  deriving DecidableEq, Repr

/-- The operand's value has a code in its field, and the field lies inside the 16-bit opcode (R70, R71). -/
def Field.fits (f : Field) : Bool :=
  decide (f.value < 2 ^ f.width) && decide (f.lo + f.width ≤ 16)

/-- The two fields have no bit in common. -/
def Field.apart (f g : Field) : Bool :=
  decide (f.lo + f.width ≤ g.lo) || decide (g.lo + g.width ≤ f.lo)

/-- The check on an instruction's operands as raw fields. -/
def fieldsWellFormed : List Field → Bool
  | [] => true
  | f :: fs => f.fits && fs.all f.apart && fieldsWellFormed fs

/-- The field `x`, `op[11:8]`. -/
def fieldX (x : Reg) : Field := ⟨"x", 8, 4, x.val⟩
/-- The field `y`, `op[7:4]`. -/
def fieldY (y : Reg) : Field := ⟨"y", 4, 4, y.val⟩
/-- The field `n`, `op[3:0]`. -/
def fieldN (n : Fin 16) : Field := ⟨"n", 0, 4, n.val⟩
/-- The field `kk`, `op[7:0]`. -/
def fieldKk (kk : Byte) : Field := ⟨"kk", 0, 8, kk.toNat⟩
/-- The field `nnn`, `op[11:0]`. -/
def fieldNnn (nnn : Addr) : Field := ⟨"nnn", 0, 12, nnn.toNat⟩

/-- The operand fields of an instruction, by its format in R72 and its row in R78. -/
def Instr.fields : Instr → List Field
  | .cls => []
  | .ret => []
  | .jp nnn => [fieldNnn nnn]
  | .call nnn => [fieldNnn nnn]
  | .seImm x kk => [fieldX x, fieldKk kk]
  | .sneImm x kk => [fieldX x, fieldKk kk]
  | .ldImm x kk => [fieldX x, fieldKk kk]
  | .addImm x kk => [fieldX x, fieldKk kk]
  | .ldReg x y => [fieldX x, fieldY y]
  | .andReg x y => [fieldX x, fieldY y]
  | .addReg x y => [fieldX x, fieldY y]
  | .subReg x y => [fieldX x, fieldY y]
  | .shr x y => [fieldX x, fieldY y]
  | .sneReg x y => [fieldX x, fieldY y]
  | .ldIndex nnn => [fieldNnn nnn]
  | .rndImm x kk => [fieldX x, fieldKk kk]
  | .drw x y n => [fieldX x, fieldY y, fieldN n]
  | .skp x => [fieldX x]
  | .sknp x => [fieldX x]
  | .ldFromDt x => [fieldX x]
  | .ldToDt x => [fieldX x]
  | .ldKey x => [fieldX x]
  | .addIndex x => [fieldX x]
  | .ldFont x => [fieldX x]
  | .ldBcd x => [fieldX x]
  | .storeRegs x => [fieldX x]
  | .loadRegs x => [fieldX x]

/-- An instruction is well formed if its operand fields are. The types of `Instr`'s arguments already bound every
operand, so this holds of every term of `Instr` (Laws/Syntax.lean, `wellFormed_all`): R76, "every value ... is legal". -/
def Instr.wellFormed (i : Instr) : Bool :=
  fieldsWellFormed i.fields

end Sys2Proof
end

