-- ==== Sys2Proof/Decode.lean ====
section
/-! DEFINITION. The decoder of 30_encoding.md: from a 16-bit opcode, or from bytes, to an instruction or a decode
failure by name; the opcode map of R78 as data; and the encoder, written from the same rows. -/

namespace Sys2Proof

/-! ## Fields of an opcode (R10, R71) -/

/-- `a = op[15:12]`, the family. -/
def opA (op : Word) : BitVec 4 := op.extractLsb' 12 4
/-- `x = op[11:8]`. -/
def opX (op : Word) : Reg := (op.extractLsb' 8 4).toFin
/-- `y = op[7:4]`. -/
def opY (op : Word) : Reg := (op.extractLsb' 4 4).toFin
/-- `d = op[3:0]`, the low nibble. -/
def opD (op : Word) : BitVec 4 := op.extractLsb' 0 4
/-- `n = op[3:0]`, as a count. -/
def opN (op : Word) : Fin 16 := (op.extractLsb' 0 4).toFin
/-- `kk = op[7:0]`. -/
def opKk (op : Word) : Byte := op.extractLsb' 0 8
/-- `nnn = op[11:0]`. -/
def opNnn (op : Word) : Addr := op.extractLsb' 0 12

/-! ## The opcode map as data (R78) -/

/-- A row of the opcode map: an opcode belongs to it when its masked bits are the row's `value` (R78). -/
structure Row where
  mnemonic : String
  value : Word
  mask : Word
  deriving DecidableEq, Repr

/-- `(op & mask) = match`. -/
def Row.covers (r : Row) (op : Word) : Bool := decide (op &&& r.mask = r.value)

/-- The row of R78 that an instruction is. -/
def Instr.row : Instr → Row
  | .cls => ⟨"CLS", 0x00E0, 0xFFFF⟩
  | .ret => ⟨"RET", 0x00EE, 0xFFFF⟩
  | .jp _ => ⟨"JP nnn", 0x1000, 0xF000⟩
  | .call _ => ⟨"CALL nnn", 0x2000, 0xF000⟩
  | .seImm _ _ => ⟨"SE Vx, kk", 0x3000, 0xF000⟩
  | .sneImm _ _ => ⟨"SNE Vx, kk", 0x4000, 0xF000⟩
  | .ldImm _ _ => ⟨"LD Vx, kk", 0x6000, 0xF000⟩
  | .addImm _ _ => ⟨"ADD Vx, kk", 0x7000, 0xF000⟩
  | .ldReg _ _ => ⟨"LD Vx, Vy", 0x8000, 0xF00F⟩
  | .andReg _ _ => ⟨"AND Vx, Vy", 0x8002, 0xF00F⟩
  | .addReg _ _ => ⟨"ADD Vx, Vy", 0x8004, 0xF00F⟩
  | .subReg _ _ => ⟨"SUB Vx, Vy", 0x8005, 0xF00F⟩
  | .shr _ _ => ⟨"SHR Vx", 0x8006, 0xF00F⟩
  | .sneReg _ _ => ⟨"SNE Vx, Vy", 0x9000, 0xF00F⟩
  | .ldIndex _ => ⟨"LD I, nnn", 0xA000, 0xF000⟩
  | .rndImm _ _ => ⟨"RND Vx, kk", 0xC000, 0xF000⟩
  | .drw _ _ _ => ⟨"DRW Vx, Vy, n", 0xD000, 0xF000⟩
  | .skp _ => ⟨"SKP Vx", 0xE09E, 0xF0FF⟩
  | .sknp _ => ⟨"SKNP Vx", 0xE0A1, 0xF0FF⟩
  | .ldFromDt _ => ⟨"LD Vx, DT", 0xF007, 0xF0FF⟩
  | .ldToDt _ => ⟨"LD DT, Vx", 0xF015, 0xF0FF⟩
  | .ldKey _ => ⟨"LD Vx, K", 0xF00A, 0xF0FF⟩
  | .addIndex _ => ⟨"ADD I, Vx", 0xF01E, 0xF0FF⟩
  | .ldFont _ => ⟨"LD F, Vx", 0xF029, 0xF0FF⟩
  | .ldBcd _ => ⟨"LD B, Vx", 0xF033, 0xF0FF⟩
  | .storeRegs _ => ⟨"LD [I], Vx", 0xF055, 0xF0FF⟩
  | .loadRegs _ => ⟨"LD Vx, [I]", 0xF065, 0xF0FF⟩

/-- One instruction of every row, in the order of R78. -/
def oneOfEachRow : List Instr :=
  [Instr.cls, Instr.ret, Instr.jp 0, Instr.call 0, Instr.seImm 0 0, Instr.sneImm 0 0, Instr.ldImm 0 0,
    Instr.addImm 0 0, Instr.ldReg 0 0, Instr.andReg 0 0, Instr.addReg 0 0, Instr.subReg 0 0, Instr.shr 0 0,
    Instr.sneReg 0 0, Instr.ldIndex 0, Instr.rndImm 0 0, Instr.drw 0 0 0, Instr.skp 0, Instr.sknp 0,
    Instr.ldFromDt 0, Instr.ldToDt 0, Instr.ldKey 0, Instr.addIndex 0, Instr.ldFont 0, Instr.ldBcd 0,
    Instr.storeRegs 0, Instr.loadRegs 0]

/-- The opcode map of R78. -/
def opcodeMap : List Row := oneOfEachRow.map Instr.row

/-! ## Decoding (R77, R80 to R87) -/

/-- Why there is no instruction to execute. -/
inductive DecodeFailure where
  /-- The opcode matches no row of R78; it carries the opcode (R77). The Executor raises DecodeError (R223). -/
  | noRow (opcode : Word)
  /-- Fewer than the two bytes of an instruction are left (R70). Never reached by the Executor, which fetches two
  bytes or raises (R55). -/
  | tooShort
  deriving DecidableEq, Repr

/-- Family `0x0`: only the two whole words (R80). -/
def decodeFamily0 (op : Word) : Except DecodeFailure Instr :=
  if op = 0x00E0 then .ok .cls else if op = 0x00EE then .ok .ret else .error (.noRow op)

/-- Family `0x8`: by the low nibble (R81). -/
def decodeFamily8 (op : Word) : Except DecodeFailure Instr :=
  match (opD op).toNat with
  | 0x0 => .ok (.ldReg (opX op) (opY op))
  | 0x2 => .ok (.andReg (opX op) (opY op))
  | 0x4 => .ok (.addReg (opX op) (opY op))
  | 0x5 => .ok (.subReg (opX op) (opY op))
  | 0x6 => .ok (.shr (opX op) (opY op))
  | _ => .error (.noRow op)

/-- Family `0x9`: only the low nibble 0 (R82). -/
def decodeFamily9 (op : Word) : Except DecodeFailure Instr :=
  match (opD op).toNat with
  | 0x0 => .ok (.sneReg (opX op) (opY op))
  | _ => .error (.noRow op)

/-- Family `0xE`: by the low byte (R83). -/
def decodeFamilyE (op : Word) : Except DecodeFailure Instr :=
  match (opKk op).toNat with
  | 0x9E => .ok (.skp (opX op))
  | 0xA1 => .ok (.sknp (opX op))
  | _ => .error (.noRow op)

/-- Family `0xF`: by the low byte (R84). -/
def decodeFamilyF (op : Word) : Except DecodeFailure Instr :=
  match (opKk op).toNat with
  | 0x07 => .ok (.ldFromDt (opX op))
  | 0x0A => .ok (.ldKey (opX op))
  | 0x15 => .ok (.ldToDt (opX op))
  | 0x1E => .ok (.addIndex (opX op))
  | 0x29 => .ok (.ldFont (opX op))
  | 0x33 => .ok (.ldBcd (opX op))
  | 0x55 => .ok (.storeRegs (opX op))
  | 0x65 => .ok (.loadRegs (opX op))
  | _ => .error (.noRow op)

/-- The decoder: "masking the top nibble to select an instruction family, then (for families with sub-opcodes) masking
a secondary field" (R77). Families `0x5` and `0xB` have no row (R85). -/
def decodeWord (op : Word) : Except DecodeFailure Instr :=
  match (opA op).toNat with
  | 0x0 => decodeFamily0 op
  | 0x1 => .ok (.jp (opNnn op))
  | 0x2 => .ok (.call (opNnn op))
  | 0x3 => .ok (.seImm (opX op) (opKk op))
  | 0x4 => .ok (.sneImm (opX op) (opKk op))
  | 0x6 => .ok (.ldImm (opX op) (opKk op))
  | 0x7 => .ok (.addImm (opX op) (opKk op))
  | 0x8 => decodeFamily8 op
  | 0x9 => decodeFamily9 op
  | 0xA => .ok (.ldIndex (opNnn op))
  | 0xC => .ok (.rndImm (opX op) (opKk op))
  | 0xD => .ok (.drw (opX op) (opY op) (opN op))
  | 0xE => decodeFamilyE op
  | 0xF => decodeFamilyF op
  | _ => .error (.noRow op)

/-- `concat(h, l)`: the opcode whose high byte is the one at the lower address (R11, R56). -/
def concatBytes (h l : Byte) : Word := h ++ l

/-- The byte of the opcode at the lower address, `op[15:8]` (R56). -/
def highByte (op : Word) : Byte := op.extractLsb' 8 8

/-- The byte of the opcode at the higher address, `op[7:0]` (R56). -/
def lowByte (op : Word) : Byte := op.extractLsb' 0 8

/-- Decoding from bytes in memory order: two bytes, high byte first, and the rest of the bytes (R70). -/
def decode : List Byte → Except DecodeFailure (Instr × List Byte)
  | h :: l :: rest =>
    match decodeWord (concatBytes h l) with
    | .ok i => .ok (i, rest)
    | .error e => .error e
  | _ => .error .tooShort

/-! ## Encoding (R72, R78) -/

/-- Format `F_XKK`: `a x kk`. -/
def wordXKk (a : BitVec 4) (x : Reg) (kk : Byte) : Word := a ++ (BitVec.ofFin (w := 4) x ++ kk)

/-- Format `F_NNN`: `a nnn`. -/
def wordNnn (a : BitVec 4) (nnn : Addr) : Word := a ++ nnn

/-- Formats `F_XY` and `F_XYN`: `a x y d`. -/
def wordXYD (a : BitVec 4) (x y : Reg) (d : BitVec 4) : Word :=
  a ++ (BitVec.ofFin (w := 4) x ++ (BitVec.ofFin (w := 4) y ++ d))

/-- The opcode of an instruction (R72, R78). -/
def encode : Instr → Word
  | .cls => 0x00E0
  | .ret => 0x00EE
  | .jp nnn => wordNnn 0x1 nnn
  | .call nnn => wordNnn 0x2 nnn
  | .seImm x kk => wordXKk 0x3 x kk
  | .sneImm x kk => wordXKk 0x4 x kk
  | .ldImm x kk => wordXKk 0x6 x kk
  | .addImm x kk => wordXKk 0x7 x kk
  | .ldReg x y => wordXYD 0x8 x y 0x0
  | .andReg x y => wordXYD 0x8 x y 0x2
  | .addReg x y => wordXYD 0x8 x y 0x4
  | .subReg x y => wordXYD 0x8 x y 0x5
  | .shr x y => wordXYD 0x8 x y 0x6
  | .sneReg x y => wordXYD 0x9 x y 0x0
  | .ldIndex nnn => wordNnn 0xA nnn
  | .rndImm x kk => wordXKk 0xC x kk
  | .drw x y n => wordXYD 0xD x y (BitVec.ofFin (w := 4) n)
  | .skp x => wordXKk 0xE x 0x9E
  | .sknp x => wordXKk 0xE x 0xA1
  | .ldFromDt x => wordXKk 0xF x 0x07
  | .ldToDt x => wordXKk 0xF x 0x15
  | .ldKey x => wordXKk 0xF x 0x0A
  | .addIndex x => wordXKk 0xF x 0x1E
  | .ldFont x => wordXKk 0xF x 0x29
  | .ldBcd x => wordXKk 0xF x 0x33
  | .storeRegs x => wordXKk 0xF x 0x55
  | .loadRegs x => wordXKk 0xF x 0x65

/-- The bytes of an instruction in memory order (R56). -/
def encodeBytes (i : Instr) : List Byte := [highByte (encode i), lowByte (encode i)]

/-- The opcode whose bits are `w`, numbered as the opcode table numbers them; the bits at and above `nbits` are 0. -/
def tableWord (nbits w : Nat) : Word := BitVec.ofNat 16 (w % 2 ^ nbits)

/-- What the decoder reads from an instruction whose bits are `w`, laid out as the machine stores it. -/
def decodeTableWord (nbits w : Nat) : Option Instr :=
  match decode [highByte (tableWord nbits w), lowByte (tableWord nbits w)] with
  | .ok (i, _) => some i
  | .error _ => none

end Sys2Proof
end

