-- ==== Sys2Proof/Config.lean ====
section
/-! DEFINITION. The implementation parameters of 00_scope.md R8 and the free values: what the host and the wall clock
supply, which no rule fixes. -/

namespace Sys2Proof.Config

/-- `MEM_SIZE`: the bytes of the memory image (R8, R50; decision D2, log 6). -/
def memSize : Nat := 4095

/-- `FONT_BASE`: the address of the first font byte (R8, R52; decision D3, log 7). -/
def fontBase : Nat := 0x000

/-- `GLYPH_BYTES`: the bytes, and rows, of one glyph (R8, R182). -/
def glyphBytes : Nat := 5

/-- `PROG_BASE`: the first program byte and the reset value of `pc` (R8, R52, R261). -/
def progBase : Nat := 0x200

/-- The 16 glyphs of the font, five rows each, glyph `0` first (R262; decision D4, log 5). -/
def fontGlyphs : List (List Byte) :=
  [[0xF0, 0x90, 0x90, 0x90, 0xF0], [0x20, 0x60, 0x20, 0x20, 0x70],
    [0xF0, 0x10, 0xF0, 0x80, 0xF0], [0xF0, 0x10, 0xF0, 0x10, 0xF0],
    [0x90, 0x90, 0xF0, 0x10, 0x10], [0xF0, 0x80, 0xF0, 0x10, 0xF0],
    [0xF0, 0x80, 0xF0, 0x90, 0xF0], [0xF0, 0x10, 0x20, 0x40, 0x40],
    [0xF0, 0x90, 0xF0, 0x90, 0xF0], [0xF0, 0x90, 0xF0, 0x10, 0xF0],
    [0xF0, 0x90, 0xF0, 0x90, 0x90], [0xE0, 0x90, 0xE0, 0x90, 0xE0],
    [0xF0, 0x80, 0x80, 0x80, 0xF0], [0xE0, 0x90, 0x90, 0x90, 0xE0],
    [0xF0, 0x80, 0xF0, 0x80, 0xF0], [0xF0, 0x80, 0xF0, 0x80, 0x80]]

/-- `FONT_DATA`: the 80 bytes of the font (R262). -/
def fontData : List Byte := fontGlyphs.flatten

/-- The values the parameter `SUB_FLAG` may take (R8, R166). -/
inductive SubFlag where
  /-- `VF` is 1 when there is no borrow: `Vx >= Vy`. -/
  | ge
  /-- `VF` is 1 when `Vx > Vy`. -/
  | gt
  /-- `VF` is 1 when there is a borrow: `Vx < Vy`. -/
  | borrow
  deriving DecidableEq, Repr

/-- `SUB_FLAG`, the meaning of the flag of `8xy5`: the spec's default `GE` (R8, R166; decision D7, log 10). -/
def subFlag : SubFlag := .ge

/-- The values the parameter `KEY_OOR` may take (R8, R200). -/
inductive KeyOor where
  /-- A key numbered 16 to 255 is never down. -/
  | notPressed
  /-- A query for a key numbered 16 to 255 has no meaning. -/
  | refuse
  deriving DecidableEq, Repr

/-- `KEY_OOR`, the meaning of a key query for a key number above 15: the spec's default `NOT_PRESSED`
(R8, R200; decision D18, log 21). -/
def keyOor : KeyOor := .notPressed

/-- FREE VALUE. The key levels the Executor samples at its `k`-th step: the host may move any key at any time between
steps (R16, R35, R111; log 2). -/
opaque keyLevels : Nat → Vector Bool 16

/-- FREE VALUE. The byte the random source supplies to the draw of the `k`-th step: `RND` of R8, with no law
(R168; decision D22, logs 2 and 25). -/
opaque randomByte : Nat → Byte

/-- FREE VALUE. How many ticks of the timer unit fall between the Executor's `k`-th step and the one after it:
`STEP_SCHEDULE` of R8, any number, none included (R234; decisions D20 and D29, logs 3 and 32). -/
opaque ticksAfter : Nat → Nat

end Sys2Proof.Config
end

