-- ==== Sys2Proof/Machine/State.lean ====
section
/-! DEFINITION. The state of the CORE as plain data: 10_state.md R20 and 20_memory.md R50, the inputs a step reads, and
the state after reset (70_reset_and_hazards.md R261). -/

namespace Sys2Proof.Machine

/-! ## Errors and outcomes -/

/-- The two kinds of StackError (R225). -/
inductive StackErrorKind where
  /-- "call past capacity" -/
  | overflow
  /-- "return with empty stack" -/
  | underflow
  deriving DecidableEq, Repr

/-- The error record `e` of `Fatal(e)` and `Faulted(e)` (R226; decision D17, log 20). -/
inductive FatalError where
  /-- DecodeError (R223). -/
  | decodeError (pc opcode : Word)
  /-- MemoryBoundsError; `opcode` is absent for a fetch error, `addr` is the lowest out-of-bounds address (R224). -/
  | memoryBoundsError (pc : Word) (opcode : Option Word) (addr : Nat)
  /-- StackError (R225). -/
  | stackError (pc opcode : Word) (kind : StackErrorKind)
  deriving DecidableEq, Repr

/-- The Executor's status (R36). -/
inductive Mode where
  | running
  | faulted (e : FatalError)
  deriving DecidableEq, Repr

/-- What `step()` returns to the host (R100). -/
inductive StepResult where
  /-- An instruction completed. -/
  | ok
  /-- The instruction at `pc` is `Fx0A` and no key is down (R206). -/
  | wait
  /-- A fatal error. -/
  | fatal (e : FatalError)
  deriving DecidableEq, Repr

/-- Reasons for a step to stop with no next state: none. Every fatal error of the CORE has a next state, the state with
`mode = Faulted(e)` (R222, R230), so no meaning and no step raises a `Fault`, and the type has no constructor (log 1).
Safe: the model stops nowhere that the hardware goes on. -/
inductive Fault where
  deriving DecidableEq, Repr

/-- Reasons for giving a request no meaning. -/
inductive Refusal where
  /-- Raised by an arm of `exec` whose instruction has no meaning yet. Safe: the model stops. -/
  | notModelled (mnemonic : String)
  /-- Raised by `SKP` and `SKNP` for a key number above 15, only under `KEY_OOR = REFUSE` (R200), which is not the value
  this hardware takes. Safe: the model stops. -/
  | keyOutOfRange (key : Byte)
  /-- Raised by `State.load` for a ROM that does not fit (R265); no step raises it. Safe: the model stops. -/
  | romTooLong (length : Nat)
  deriving DecidableEq, Repr

/-! ## State -/

/-- The display surface: 32 rows, top to bottom, of 64 cells, left to right; `true` is on (R34). -/
abbrev Display := Vector (Vector Bool 64) 32

/-- The memory image as a list of cells in one canonical form, `Memory.wf`: addresses strictly rising, every one inside
the image, and no cell equal to what an unlisted address reads as. -/
abbrev Memory := List Host.Cell

/-- The state of the machine (R20), with the inputs of a step and the model's own fields. -/
structure State where
  /-- `V[0]`..`V[15]` (R21). -/
  v : Vector Byte 16
  /-- `I` (R25). -/
  index : Word
  /-- `pc` (R27). -/
  pc : Word
  /-- `stack[0]`..`stack[15]` (R30). -/
  stack : Vector Word 16
  /-- `SP`, the number of occupied entries, 0 to 16 (R31). -/
  sp : Fin 17
  /-- `DT` (R32). -/
  dt : Byte
  /-- `ST` (R33). -/
  st : Byte
  /-- `disp` (R34). -/
  disp : Display
  /-- `mem` (R50). -/
  mem : Memory
  /-- `mode` (R36). -/
  mode : Mode
  /-- Input: the keypad sample `K` of the step (R35, R111). Not state of the CORE; each step of the Executor
  overwrites it from a free value before it reads it (log 2). -/
  keys : Vector Bool 16
  /-- Input: the byte the random source supplies to the step's draw (R15, R168). Not state of the CORE; each step
  overwrites it from a free value before it reads it (log 2). -/
  rnd : Byte
  /-- The model's own: what the last `step()` returned, absent before the first (R100, log 4). -/
  result : Option StepResult
  /-- The model's own: how many steps have been requested, the argument of the free values (log 2). -/
  stepCount : Nat
  /-- The model's own: how many ticks fall before the Executor's next step, so whose turn it is: the timer unit's while
  it is not 0, else the Executor's (R9, R236, log 3). -/
  ticksDue : Nat
  deriving DecidableEq, Repr

/-- The state right after reset, no ROM loaded (R261, R263): memory with nothing listed, since an unlisted address
reads as its reset content. The values of `keys`, `rnd`, `result`, `stepCount` and `ticksDue` are the model's
(log 37). -/
def State.reset : State where
  v := Vector.replicate 16 0
  index := 0
  pc := 0x200
  stack := Vector.replicate 16 0
  sp := 0
  dt := 0
  st := 0
  disp := Vector.replicate 32 (Vector.replicate 64 false)
  mem := []
  mode := .running
  keys := Vector.replicate 16 false
  rnd := 0
  result := none
  stepCount := 0
  ticksDue := 0

end Sys2Proof.Machine
end

