-- ==== Sys2Proof/Machine/Ops.lean ====
section
/-! DEFINITION. The named operations over memory, registers and the rest of the state, fetching an instruction, and
raising a fatal error: 20_memory.md, 10_state.md, 40_execution_cycle.md and 60_exceptions.md. -/

namespace Sys2Proof.Machine

/-- The outcome of a meaning and of a step. -/
abbrev Outcome := Host.Outcome State Fault Refusal

/-! ## Memory (20_memory.md R50 to R61) -/

/-- What an unlisted address reads as: its content at reset, the font's bytes and zero elsewhere (R262, R263). -/
def Memory.unlisted (a : Nat) : Byte :=
  if Config.fontBase ≤ a then Config.fontData.getD (a - Config.fontBase) 0 else 0

/-- The cell `mem[a]`, with no bounds check. -/
def Memory.read : Memory → Nat → Byte
  | [], a => Memory.unlisted a
  | (b, w) :: m, a => if a = b then w else Memory.read m a

/-- The list `m` with the cell `(a, v)` before it, unless an unlisted `a` already reads as `v`. -/
def Memory.cons (a : Nat) (v : Byte) (m : Memory) : Memory :=
  if v = Memory.unlisted a then m else (a, v) :: m

/-- `mem[a] <- v`, with no bounds check; the canonical form is kept. -/
def Memory.write : Memory → Nat → Byte → Memory
  | [], a, v => Memory.cons a v []
  | (b, w) :: m, a, v =>
    if a < b then Memory.cons a v ((b, w) :: m)
    else if a = b then Memory.cons a v m
    else (b, w) :: Memory.write m a v

/-- The bytes at `a`, `a + 1`, .., `a + n - 1`, with no bounds check. -/
def Memory.readBytes (m : Memory) (a n : Nat) : List Byte :=
  (List.range n).map fun k => m.read (a + k)

/-- Writes the bytes at `a`, `a + 1`, .. in ascending order, with no bounds check. -/
def Memory.writeBytes (m : Memory) (a : Nat) : List Byte → Memory
  | [] => m
  | b :: bs => Memory.writeBytes (m.write a b) (a + 1) bs

/-- The canonical form of a memory: addresses strictly rising, every one below `MEM_SIZE` (R50), no cell equal to what
an unlisted address reads as. -/
abbrev Memory.wf (m : Memory) : Prop :=
  m.Pairwise (fun c d => c.1 < d.1) ∧ ∀ c ∈ m, c.1 < Config.memSize ∧ c.2 ≠ Memory.unlisted c.1

/-- The bounds check of an access to the `n` bytes from `a`: none when it passes, else the lowest out-of-bounds address
(R53, R54, R224, R227). The addresses are exact naturals (R61); an access to no byte is never out of bounds (R127). -/
def outOfBounds (a n : Nat) : Option Nat :=
  if n = 0 ∨ a + n ≤ Config.memSize then none else some (max a Config.memSize)

/-- `MemRead(a, 1)`: the byte, or the address of a MemoryBoundsError (R53). -/
def memRead (m : Memory) (a : Nat) : Except Nat Byte :=
  match outOfBounds a 1 with
  | some e => .error e
  | none => .ok (m.read a)

/-- `MemWrite(a, 1, v)`: the memory after, or the address of a MemoryBoundsError (R54). -/
def memWrite (m : Memory) (a : Nat) (v : Byte) : Except Nat Memory :=
  match outOfBounds a 1 with
  | some e => .error e
  | none => .ok (m.write a v)

/-! ## Fetching (R55, R56) -/

/-- `Fetch(pc)`: the opcode at `pc` and `pc + 1`, the high byte at the lower address, or the address of a
MemoryBoundsError (R55). -/
def fetch (m : Memory) (pc : Word) : Except Nat Word :=
  match outOfBounds pc.toNat 2 with
  | some a => .error a
  | none => .ok (concatBytes (m.read pc.toNat) (m.read (pc.toNat + 1)))

/-- Fetch and decode at `pc`: the instruction, or the error of the fetch or of the decoder (R100, R102, R103, R227). -/
def fetchDecode (s : State) : Except FatalError Instr :=
  match fetch s.mem s.pc with
  | .error a => .error (.memoryBoundsError s.pc none a)
  | .ok op =>
    match decodeWord op with
    | .ok i => .ok i
    | .error _ => .error (.decodeError s.pc op)

/-! ## The parts of the state -/

/-- `V[r]` (R12). -/
def State.reg (s : State) (r : Reg) : Byte := s.v[r]

/-- The number of `VF`, the only flag (R22). -/
def regF : Reg := 15

/-- `V[r] <- b` (R12). -/
def State.setReg (s : State) (r : Reg) (b : Byte) : State := { s with v := s.v.set r b }

/-- All sixteen registers at once. -/
def State.setRegs (s : State) (v : Vector Byte 16) : State := { s with v := v }

/-- `I <- w`. -/
def State.setIndex (s : State) (w : Word) : State := { s with index := w }

/-- `pc <- w`. -/
def State.setPc (s : State) (w : Word) : State := { s with pc := w }

/-- `pc <- pc + n mod 2^16` (R29, R105). -/
def State.advance (s : State) (n : Word) : State := s.setPc (s.pc + n)

/-- `DT <- b`. -/
def State.setDt (s : State) (b : Byte) : State := { s with dt := b }

/-- The display surface becomes `d`. -/
def State.setDisp (s : State) (d : Display) : State := { s with disp := d }

/-- The memory image becomes `m`. -/
def State.setMem (s : State) (m : Memory) : State := { s with mem := m }

/-- The push of a call: `stack[SP] <- w`, then `SP <- SP + 1`, when an entry is free (R31). -/
def State.push (s : State) (w : Word) (h : s.sp.val < 16) : State :=
  { s with stack := s.stack.set s.sp.val w, sp := ⟨s.sp.val + 1, by omega⟩ }

/-- The most recent return address, `stack[SP - 1]`, when there is one (R31). -/
def State.top (s : State) (h : 0 < s.sp.val) : Word :=
  s.stack[s.sp.val - 1]'(by have := s.sp.isLt; omega)

/-- The pop of a return: `SP <- SP - 1`; the entry stays in the array, stale (R31; decision D26, log 29). -/
def State.pop (s : State) : State := { s with sp := ⟨s.sp.val - 1, by have := s.sp.isLt; omega⟩ }

/-- What `step()` returns to the host (R100). -/
def State.setResult (s : State) (r : StepResult) : State := { s with result := some r }

/-! ## Completing and raising -/

/-- The instruction completed, and `step()` returns `Ok` (R100, R104). -/
def State.complete (s : State) : Outcome := .next (s.setResult .ok)

/-- A wait step: nothing is written, and `step()` returns `Wait` (R206). -/
def State.wait (s : State) : State := s.setResult .wait

/-- The state after the fatal error `e` is raised in `s`: `mode = Faulted(e)`, and nothing else of the CORE changes
(R100, R222, R230); `step()` returns `Fatal(e)`. -/
def State.faultWith (s : State) (e : FatalError) : State :=
  { s with mode := .faulted e, result := some (.fatal e) }

/-- RAISING A FATAL ERROR, the one shared operation (R100 "on raise", R222). The spec describes the state after, so it
is a next state (log 1). There is no handler, no saved state and no return (R221, R229). -/
def State.raise (s : State) (e : FatalError) : Outcome := .next (s.faultWith e)

/-- Raises the MemoryBoundsError of the instruction `i` at the address `a` (R224). The opcode of the record is `i`'s own
word: of the instructions that raise it, none has an unused field (R88; log 20). -/
def State.raiseBounds (s : State) (i : Instr) (a : Nat) : Outcome :=
  s.raise (.memoryBoundsError s.pc (some (encode i)) a)

/-- Raises the StackError of the instruction `i` (R225). -/
def State.raiseStack (s : State) (i : Instr) (k : StackErrorKind) : Outcome :=
  s.raise (.stackError s.pc (encode i) k)

end Sys2Proof.Machine
end

