-- ==== Sys2Proof/Machine/Operands.lean ====
section
/-! DEFINITION. The operand forms: immediates and addresses (30_encoding.md R73 to R76), the register range of `Fx55`
and `Fx65`, key numbers (45_keypad_timers.md R200, R207), glyph addresses and decimal digits (44_index_memory.md). -/

namespace Sys2Proof.Machine

/-- An exact result narrowed to a register: `n mod 256` (R11, R160). -/
def narrow8 (n : Nat) : Byte := BitVec.ofNat 8 n

/-- An exact result narrowed to `I`: `n mod 2^16` (R11, R181). -/
def narrow16 (n : Nat) : Word := BitVec.ofNat 16 n

/-- `zext_16(nnn)` (R74). -/
def addrWord (nnn : Addr) : Word := nnn.setWidth 16

/-- The effective address of the first byte an instruction moves, `I`, as an exact natural (R61, R186). -/
def State.dataAddr (s : State) : Nat := s.index.toNat

/-- `V[0]`, .., `V[x]`, the inclusive range (R76, R184). -/
def State.regRange (s : State) (x : Reg) : List Byte := s.v.toList.take (x.val + 1)

/-- The registers after `V[k] <- mem[a + k]` for `k` in `0..x`, the others as they were (R185). -/
def State.regsFrom (s : State) (x : Reg) (a : Nat) : Vector Byte 16 :=
  Vector.ofFn fun r => if r ≤ x then s.mem.read (a + r.val) else s.reg r

/-- The advance of a skip: 4 when the condition holds, else 2 (R146). -/
def State.skipIf (s : State) (c : Bool) : State := s.advance (if c then 4 else 2)

/-- `keyDown(K, v)`; absent where `KEY_OOR = REFUSE` gives the query no meaning (R200; decision D18, log 21). -/
def keyDown (keys : Vector Bool 16) (v : Byte) : Option Bool :=
  if h : v.toNat < 16 then some keys[v.toNat]
  else
    match Config.keyOor with
    | .notPressed => some false
    | .refuse => none

/-- `KEY_PICK(K)`: the lowest key that is down, absent when none is (R205, R207; decision D19, log 22). -/
def keyPick (keys : Vector Bool 16) : Option (Fin 16) :=
  (List.finRange 16).find? fun k => keys[k]

/-- The address of the glyph that `vx` selects: the formula on the whole byte (R182; decision D12, log 15). -/
def glyphAddr (vx : Byte) : Word := narrow16 (Config.fontBase + vx.toNat * Config.glyphBytes)

/-- The decimal digits of a byte: hundreds, tens, ones (R183). -/
def bcdDigits (vx : Byte) : List Byte :=
  [narrow8 (vx.toNat / 100), narrow8 (vx.toNat / 10 % 10), narrow8 (vx.toNat % 10)]

/-- A store through `I` by the instruction `i`: every byte is checked, then all are written in ascending order, and `pc`
advances by 2 (R183, R184; decision D15, log 18). -/
def State.storeBytes (s : State) (i : Instr) (bs : List Byte) : Outcome :=
  match outOfBounds s.dataAddr bs.length with
  | some a => s.raiseBounds i a
  | none => ((s.setMem (s.mem.writeBytes s.dataAddr bs)).advance 2).complete

end Sys2Proof.Machine
end

