-- ==== Sys2Proof/Machine/Flags.lean ====
section
/-! DEFINITION. The values written to `VF` as a flag: 10_state.md R22 and 43_alu.md R165 to R167. -/

namespace Sys2Proof.Machine

/-- `bool(c)` as a register value (R11). -/
def boolByte (c : Bool) : Byte := if c then 1 else 0

/-- The carry of `8xy4`: the exact sum exceeds 255 (R165). -/
def carry (vx vy : Byte) : Bool := decide (vx.toNat + vy.toNat > 255)

/-- `subflag(vx, vy)` for a value of `SUB_FLAG` (R166). -/
def subFlagOf (f : Config.SubFlag) (vx vy : Byte) : Bool :=
  match f with
  | .ge => decide (vx.toNat ≥ vy.toNat)
  | .gt => decide (vx.toNat > vy.toNat)
  | .borrow => decide (vx.toNat < vy.toNat)

/-- The flag of `8xy5` under the value of `SUB_FLAG` that this hardware takes (R166; decision D7, log 10). -/
def subFlag (vx vy : Byte) : Bool := subFlagOf Config.subFlag vx vy

/-- The bit that `8xy6` shifts out, `vx & 1` (R167). -/
def shiftedOut (vx : Byte) : Byte := vx &&& 1

end Sys2Proof.Machine
end

