-- ==== Sys2Proof/Machine/Alu.lean ====
section
/-! DEFINITION. The register and ALU family of 43_alu.md: `6xkk`, `7xkk`, `8xy0`, `8xy2`, `8xy4`, `8xy5`, `8xy6`, `Cxkk`.
Operands are latched and the writes follow the listed order (40_execution_cycle.md R106; decision D6, log 9). -/

namespace Sys2Proof.Machine

/-- `6xkk` LD Vx, kk (R161). -/
def execLdImm (x : Reg) (kk : Byte) (s : State) : Outcome :=
  ((s.setReg x kk).advance 2).complete

/-- `7xkk` ADD Vx, kk: no flag (R162). -/
def execAddImm (x : Reg) (kk : Byte) (s : State) : Outcome :=
  ((s.setReg x (narrow8 ((s.reg x).toNat + kk.toNat))).advance 2).complete

/-- `8xy0` LD Vx, Vy (R163; decision D9, log 12). -/
def execLdReg (x y : Reg) (s : State) : Outcome :=
  ((s.setReg x (s.reg y)).advance 2).complete

/-- `8xy2` AND Vx, Vy (R164; decision D9, log 12). -/
def execAndReg (x y : Reg) (s : State) : Outcome :=
  ((s.setReg x (s.reg x &&& s.reg y)).advance 2).complete

/-- `8xy4` ADD Vx, Vy: the sum, then `VF` (R165). -/
def execAddReg (x y : Reg) (s : State) : Outcome :=
  (((s.setReg x (narrow8 ((s.reg x).toNat + (s.reg y).toNat))).setReg regF
    (boolByte (carry (s.reg x) (s.reg y)))).advance 2).complete

/-- `8xy5` SUB Vx, Vy: the difference, then `VF` (R166). -/
def execSubReg (x y : Reg) (s : State) : Outcome :=
  (((s.setReg x (narrow8 ((s.reg x).toNat + 256 - (s.reg y).toNat))).setReg regF
    (boolByte (subFlag (s.reg x) (s.reg y)))).advance 2).complete

/-- `8xy6` SHR Vx: `VF`, then the shifted value; `y` is not used (R167; decision D8, log 11). -/
def execShr (x _y : Reg) (s : State) : Outcome :=
  (((s.setReg regF (shiftedOut (s.reg x))).setReg x (s.reg x >>> 1)).advance 2).complete

/-- `Cxkk` RND Vx, kk: the draw is the step's random byte, a free value (R168; decision D22, log 25). -/
def execRndImm (x : Reg) (kk : Byte) (s : State) : Outcome :=
  ((s.setReg x (s.rnd &&& kk)).advance 2).complete

end Sys2Proof.Machine
end

