-- ==== Sys2Proof/Machine/ControlFlow.lean ====
section
/-! DEFINITION. The control-transfer family of 42_control_flow.md: `00EE`, `1nnn`, `2nnn`, `3xkk`, `4xkk`, `9xy0`. -/

namespace Sys2Proof.Machine

/-- `00EE` RET (R140). -/
def execRet (s : State) : Outcome :=
  if h : 0 < s.sp.val then (s.pop.setPc (s.top h)).complete
  else s.raiseStack .ret .underflow

/-- `1nnn` JP nnn: the target is `nnn` itself (R110, R141). -/
def execJp (nnn : Addr) (s : State) : Outcome :=
  (s.setPc (addrWord nnn)).complete

/-- `2nnn` CALL nnn: the pushed address is the following instruction's (R142). -/
def execCall (nnn : Addr) (s : State) : Outcome :=
  if h : s.sp.val < 16 then ((s.push (s.pc + 2) h).setPc (addrWord nnn)).complete
  else s.raiseStack (.call nnn) .overflow

/-- `3xkk` SE Vx, kk (R143, R146). -/
def execSeImm (x : Reg) (kk : Byte) (s : State) : Outcome :=
  (s.skipIf (s.reg x == kk)).complete

/-- `4xkk` SNE Vx, kk (R144, R146). -/
def execSneImm (x : Reg) (kk : Byte) (s : State) : Outcome :=
  (s.skipIf (s.reg x != kk)).complete

/-- `9xy0` SNE Vx, Vy (R145, R146). -/
def execSneReg (x y : Reg) (s : State) : Outcome :=
  (s.skipIf (s.reg x != s.reg y)).complete

end Sys2Proof.Machine
end

