-- ==== Sys2Proof/Machine/DisplayOps.lean ====
section
/-! DEFINITION. The display family of 41_display.md: the XOR write engine and the instructions `00E0` and `Dxyn`. -/

namespace Sys2Proof.Machine

/-! ## The display surface's operations (R120) -/

/-- The cell `disp[x][y]` (R34). -/
def Display.pixel (d : Display) (x : Fin 64) (y : Fin 32) : Bool := d[y][x]

/-- `clear()`: every cell off (R120). -/
def Display.clear : Display := Vector.replicate 32 (Vector.replicate 64 false)

/-- The display after `draw_pixel(x, y)`: the cell is toggled (R120). -/
def Display.toggle (d : Display) (x : Fin 64) (y : Fin 32) : Display :=
  d.set y (d[y].set x (!d[y][x]))

/-- `draw_pixel(x, y)`: the display after, and whether an on pixel was turned off (R120). -/
def Display.drawPixel (d : Display) (x : Fin 64) (y : Fin 32) : Display × Bool :=
  (d.toggle x y, d.pixel x y)

/-- `draw_pixel` at every position of the list in order: the display after, and whether some call collided (R123,
R126). -/
def Display.drawPixels (d : Display) : List (Fin 64 × Fin 32) → Display × Bool
  | [] => (d, false)
  | p :: ps =>
    let one := Display.drawPixel d p.1 p.2
    let rest := Display.drawPixels one.1 ps
    (rest.1, one.2 || rest.2)

/-- The cell `disp[x][y]` of a state. -/
def State.pixel (s : State) (x : Fin 64) (y : Fin 32) : Bool := Display.pixel s.disp x y

/-! ## Sprites (R123 to R125) -/

/-- The positions of one sprite row's set bits, the most significant bit first; `y` is the row's own coordinate before it
is reduced (R124, R125). -/
def rowPixels (vx y : Nat) (b : Byte) : List (Fin 64 × Fin 32) :=
  ((List.range 8).filter fun c => b.getLsbD (7 - c)).map fun c => (Fin.ofNat 64 (vx + c), Fin.ofNat 32 y)

/-- The positions of a sprite's set bits, row after row from the row coordinate `y`, wrapping on both axes (R123, R125;
decision D13, log 16). -/
def spritePixels (vx y : Nat) : List Byte → List (Fin 64 × Fin 32)
  | [] => []
  | b :: bs => rowPixels vx y b ++ spritePixels vx (y + 1) bs

/-! ## The instructions -/

/-- `00E0` CLS (R122). -/
def execCls (s : State) : Outcome :=
  ((s.setDisp Display.clear).advance 2).complete

/-- `Dxyn` DRW Vx, Vy, n (R123 to R129): operands latched, every row read and checked, then `VF` and the pixels. -/
def execDrw (x y : Reg) (n : Fin 16) (s : State) : Outcome :=
  match outOfBounds s.dataAddr n.val with
  | some a => s.raiseBounds (.drw x y n) a
  | none =>
    let rows := s.mem.readBytes s.dataAddr n.val
    let drawn := Display.drawPixels s.disp (spritePixels (s.reg x).toNat (s.reg y).toNat rows)
    (((s.setReg regF (boolByte drawn.2)).setDisp drawn.1).advance 2).complete

end Sys2Proof.Machine
end

