-- ==== Sys2Proof/Machine/IndexMemory.lean ====
section
/-! DEFINITION. The index-register and memory family of 44_index_memory.md: `Annn`, `Fx1E`, `Fx29`, `Fx33`, `Fx55`,
`Fx65`. -/

namespace Sys2Proof.Machine

/-- `Annn` LD I, nnn (R180). -/
def execLdIndex (nnn : Addr) (s : State) : Outcome :=
  ((s.setIndex (addrWord nnn)).advance 2).complete

/-- `Fx1E` ADD I, Vx: no flag (R181; decision D10, log 13). -/
def execAddIndex (x : Reg) (s : State) : Outcome :=
  ((s.setIndex (narrow16 (s.index.toNat + (s.reg x).toNat))).advance 2).complete

/-- `Fx29` LD F, Vx (R182). -/
def execLdFont (x : Reg) (s : State) : Outcome :=
  ((s.setIndex (glyphAddr (s.reg x))).advance 2).complete

/-- `Fx33` LD B, Vx (R183). -/
def execLdBcd (x : Reg) (s : State) : Outcome :=
  s.storeBytes (.ldBcd x) (bcdDigits (s.reg x))

/-- `Fx55` LD [I], Vx: `I` is unchanged (R184; decision D11, log 14). -/
def execStoreRegs (x : Reg) (s : State) : Outcome :=
  s.storeBytes (.storeRegs x) (s.regRange x)

/-- `Fx65` LD Vx, [I]: `I` is unchanged (R185; decision D11, log 14). -/
def execLoadRegs (x : Reg) (s : State) : Outcome :=
  match outOfBounds s.dataAddr (x.val + 1) with
  | some a => s.raiseBounds (.loadRegs x) a
  | none => ((s.setRegs (s.regsFrom x s.dataAddr)).advance 2).complete

end Sys2Proof.Machine
end

