-- ==== Sys2Proof/Machine/KeypadTimers.lean ====
section
/-! DEFINITION. The keypad and timer family of 45_keypad_timers.md: `Ex9E`, `ExA1`, `Fx07`, `Fx15`, `Fx0A`. -/

namespace Sys2Proof.Machine

/-- `Ex9E` SKP Vx (R201). -/
def execSkp (x : Reg) (s : State) : Outcome :=
  match keyDown s.keys (s.reg x) with
  | some down => (s.skipIf down).complete
  | none => .refused (.keyOutOfRange (s.reg x))

/-- `ExA1` SKNP Vx (R202). -/
def execSknp (x : Reg) (s : State) : Outcome :=
  match keyDown s.keys (s.reg x) with
  | some down => (s.skipIf (!down)).complete
  | none => .refused (.keyOutOfRange (s.reg x))

/-- `Fx07` LD Vx, DT (R203). -/
def execLdFromDt (x : Reg) (s : State) : Outcome :=
  ((s.setReg x s.dt).advance 2).complete

/-- `Fx15` LD DT, Vx (R204). -/
def execLdToDt (x : Reg) (s : State) : Outcome :=
  ((s.setDt (s.reg x)).advance 2).complete

/-- `Fx0A` LD Vx, K: the picked key, or a wait step when no key is down (R205, R206; decision D19, log 22). -/
def execLdKey (x : Reg) (s : State) : Outcome :=
  .next (match keyPick s.keys with
    | none => s.wait
    | some k => ((s.setReg x (narrow8 k.val)).advance 2).setResult .ok)

end Sys2Proof.Machine
end

