-- ==== Sys2Proof/Machine/Environment.lean ====
section
/-! DEFINITION. What happens around the Executor: the timer decrement unit (60_exceptions.md R232 to R238), the host's
inputs, the ROM load (70_reset_and_hazards.md R264, R265) and what the host reads (10_state.md R38). -/

namespace Sys2Proof.Machine

/-! ## The timer decrement unit -/

/-- A timer's value after a tick: one less, and 0 stays 0 (R233). -/
def decrement (t : Byte) : Byte := if t.toNat > 0 then narrow8 (t.toNat - 1) else t

/-- `tick()`: both timers, and nothing else (R233; decision D20, log 23). -/
def State.tick (s : State) : State := { s with dt := decrement s.dt, st := decrement s.st }

/-- A timer's value after `n` ticks: `n` less, clamped at 0 (R233, R235). -/
def decay (n : Nat) (t : Byte) : Byte := narrow8 (t.toNat - n)

/-- `n` ticks, in one update, for claims about a run of them; that it is `tick` repeated `n` times is the obligation
`TicksAreRepeatedTicks`. -/
def State.ticks (n : Nat) (s : State) : State := { s with dt := decay n s.dt, st := decay n s.st }

/-- The timer unit's turn, a transition of its own: one tick, after which `n` are left before the Executor's next step
(R9, R236; log 3). -/
def State.timerTurn (n : Nat) (s : State) : State := { s.tick with ticksDue := n }

/-! ## The inputs of a step -/

/-- What a step of the Executor takes in at its start: the sample of the keypad and the byte the random source supplies;
and how many ticks follow the step. All are free values (R16, R111, R168, R234; logs 2 and 3). -/
def State.admitHost (s : State) : State :=
  { s with
    keys := Config.keyLevels s.stepCount
    rnd := Config.randomByte s.stepCount
    stepCount := s.stepCount + 1
    ticksDue := Config.ticksAfter s.stepCount }

/-! ## The ROM load -/

/-- `load(rom)`: the bytes at `PROG_BASE` and up; a ROM that does not fit is refused and no run starts (R264, R265;
decision D32, log 34). -/
def State.load (s : State) (rom : List Byte) : Outcome :=
  if rom.length ≤ Config.memSize - Config.progBase then
    .next (s.setMem (s.mem.writeBytes Config.progBase rom))
  else .refused (.romTooLong rom.length)

/-! ## What the host reads between steps -/

/-- `view()`: the grid as a flat sequence, cell `(x, y)` at `y * 64 + x` (R34, R120; decision D27, log 30). -/
def State.view (s : State) : List Bool := (s.disp.toList.map Vector.toList).flatten

/-- The introspection surface (R15, R38). -/
structure Introspection where
  pc : Word
  mem : List Byte
  v : List Byte
  index : Word
  stack : List Word
  sp : Nat
  dt : Byte
  st : Byte
  deriving DecidableEq, Repr

/-- `introspect`: reading it changes nothing (R38, R241). -/
def State.introspect (s : State) : Introspection where
  pc := s.pc
  mem := s.mem.readBytes 0 Config.memSize
  v := s.v.toList
  index := s.index
  stack := s.stack.toList
  sp := s.sp.val
  dt := s.dt
  st := s.st

/-- The "frame ready" boundary: the last step returned `Ok` or `Wait` (R108; decision D31, log 33). -/
def State.frameReady (s : State) : Bool :=
  match s.result with
  | some .ok => true
  | some .wait => true
  | some (.fatal _) => false
  | none => false

end Sys2Proof.Machine
end

