-- ==== Sys2Proof/Machine/Step.lean ====
section
/-! DEFINITION. One transition of the machine: a tick of the timer unit (60_exceptions.md R233, R236) or a step of the
Executor (40_execution_cycle.md R100); and where an instruction is stored so that the next step runs it. -/

namespace Sys2Proof.Machine

/-- `step()` of the Executor, the inputs already sampled (R100): a faulted machine stays as it is and returns its error
again (R101); else fetch, decode and execute. -/
def executorStep (s : State) : Host.Outcome State Fault Refusal :=
  match s.mode with
  | .faulted e => s.raise e
  | .running =>
    match fetchDecode s with
    | .error e => s.raise e
    | .ok i => exec i s

/-- One transition of one of the two agents, each atomic (R9, R236): a tick while ticks are due, else a step of the
Executor on the inputs it takes in. The ticks between two steps are free in number, so ticks and steps interleave in any
order (R234; log 3). -/
def step (s : State) : Host.Outcome State Fault Refusal :=
  match s.ticksDue with
  | n + 1 => .next (s.timerTurn n)
  | 0 => executorStep s.admitHost

/-- `s` with the instruction whose bits are `w` stored at `pc`, in the machine's byte order, `mode = Running` and no tick
due, which the fetch by the very next transition needs; it stands for the ROM load (log 35). Where `pc` addresses no cell
there is no place to store it. -/
def State.withFetchWord (s : State) (nbits w : Nat) : State :=
  match outOfBounds s.pc.toNat 2 with
  | some _ => s
  | none =>
    { s with
      mem := s.mem.writeBytes s.pc.toNat [highByte (tableWord nbits w), lowByte (tableWord nbits w)]
      mode := .running
      ticksDue := 0 }

end Sys2Proof.Machine
end

