-- ==== Sys2Proof/Safety.lean ====
section
/-! DEFINITION. What counts as a safe run, and the terms the claims are stated in: the invariant of the machine, what an
instruction leaves unchanged, and what the spec says of an instruction apart from how the machine computes it. -/

namespace Sys2Proof.Machine

/-! ## Safety and the invariant -/

/-- A safe state: no fatal error has been raised (R36). -/
def State.Safe (s : State) : Prop := s.mode = .running

/-- The invariant: the memory is in canonical form, the sound timer is 0 (R33, R208), and the last result is `Fatal(e)`
exactly when the mode is `Faulted(e)` (R100, R230). -/
structure State.Inv (s : State) : Prop where
  memory : s.mem.wf
  soundTimer : s.st = 0
  faulted : ∀ e, s.mode = .faulted e ↔ s.result = some (.fatal e)

/-! ## Frames -/

/-- The parts of the state that an instruction may write beside the registers, the memory and `pc`. -/
inductive Part where
  | index
  | callStack
  | delayTimer
  | display
  deriving DecidableEq, Repr

/-- From `s` to `t` nothing changed but the registers in `regs`, the named parts, the bytes of memory in `bytes`, `pc`
and the result returned to the host. -/
structure Frame (regs : Reg → Prop) (parts : List Part) (bytes : Nat → Prop) (s t : State) : Prop where
  reg : ∀ r, ¬ regs r → t.reg r = s.reg r
  index : Part.index ∉ parts → t.index = s.index
  callStack : Part.callStack ∉ parts → t.stack = s.stack ∧ t.sp = s.sp
  delayTimer : Part.delayTimer ∉ parts → t.dt = s.dt
  display : Part.display ∉ parts → ∀ x y, t.pixel x y = s.pixel x y
  memory : ∀ a, ¬ bytes a → t.mem.read a = s.mem.read a
  soundTimer : t.st = s.st
  mode : t.mode = s.mode
  inputs : t.keys = s.keys ∧ t.rnd = s.rnd ∧ t.stepCount = s.stepCount ∧ t.ticksDue = s.ticksDue

/-- No register. -/
def noReg : Reg → Prop := fun _ => False

/-- The register `x` alone. -/
def onlyReg (x : Reg) : Reg → Prop := fun r => r = x

/-- The register `x` and `VF`. -/
def regAndFlag (x : Reg) : Reg → Prop := fun r => r = x ∨ r = regF

/-- The registers `V0..=Vx`. -/
def regsUpTo (x : Reg) : Reg → Prop := fun r => r ≤ x

/-- No byte of memory. -/
def noByte : Nat → Prop := fun _ => False

/-- The `n` bytes of memory from the address `a`. -/
def bytesFrom (a n : Nat) : Nat → Prop := fun k => a ≤ k ∧ k < a + n

/-- Every word of the row `value`, `mask` of R78 decodes to the instruction that `ins` reads from its fields. -/
def RowDecodes (value mask : Word) (ins : Word → Instr) : Prop :=
  ∀ op, op &&& mask = value → decodeWord op = .ok (ins op)

end Sys2Proof.Machine

/-! ## What the spec's tables say -/

namespace Sys2Proof

open Sys2Proof.Machine

/-- The registers an instruction writes when it completes, by the table of R24. -/
def Instr.writesReg : Instr → Reg → Prop
  | .cls => noReg
  | .ret => noReg
  | .jp _ => noReg
  | .call _ => noReg
  | .seImm _ _ => noReg
  | .sneImm _ _ => noReg
  | .ldImm x _ => onlyReg x
  | .addImm x _ => onlyReg x
  | .ldReg x _ => onlyReg x
  | .andReg x _ => onlyReg x
  | .addReg x _ => regAndFlag x
  | .subReg x _ => regAndFlag x
  | .shr x _ => regAndFlag x
  | .sneReg _ _ => noReg
  | .ldIndex _ => noReg
  | .rndImm x _ => onlyReg x
  | .drw _ _ _ => onlyReg regF
  | .skp _ => noReg
  | .sknp _ => noReg
  | .ldFromDt x => onlyReg x
  | .ldToDt _ => noReg
  | .ldKey x => onlyReg x
  | .addIndex _ => noReg
  | .ldFont _ => noReg
  | .ldBcd _ => noReg
  | .storeRegs _ => noReg
  | .loadRegs x => regsUpTo x

/-- The registers an instruction reads, by the table of R24. -/
def Instr.readsReg : Instr → Reg → Prop
  | .cls => noReg
  | .ret => noReg
  | .jp _ => noReg
  | .call _ => noReg
  | .seImm x _ => onlyReg x
  | .sneImm x _ => onlyReg x
  | .ldImm _ _ => noReg
  | .addImm x _ => onlyReg x
  | .ldReg _ y => onlyReg y
  | .andReg x y => fun r => r = x ∨ r = y
  | .addReg x y => fun r => r = x ∨ r = y
  | .subReg x y => fun r => r = x ∨ r = y
  | .shr x _ => onlyReg x
  | .sneReg x y => fun r => r = x ∨ r = y
  | .ldIndex _ => noReg
  | .rndImm _ _ => noReg
  | .drw x y _ => fun r => r = x ∨ r = y
  | .skp x => onlyReg x
  | .sknp x => onlyReg x
  | .ldFromDt _ => noReg
  | .ldToDt x => onlyReg x
  | .ldKey _ => noReg
  | .addIndex x => onlyReg x
  | .ldFont x => onlyReg x
  | .ldBcd x => onlyReg x
  | .storeRegs x => regsUpTo x
  | .loadRegs _ => noReg

/-- The bytes of memory an instruction writes when it completes in `s`, by the table of R58. -/
def Instr.writesByte (s : State) : Instr → Nat → Prop
  | .ldBcd _ => bytesFrom s.index.toNat 3
  | .storeRegs x => bytesFrom s.index.toNat (x.val + 1)
  | _ => noByte

/-- The keypad is read by `Ex9E`, `ExA1` and `Fx0A` alone (R239). -/
def Instr.readsKeys : Instr → Bool
  | .skp _ => true
  | .sknp _ => true
  | .ldKey _ => true
  | _ => false

/-- The random source is read by `Cxkk` alone (R168). -/
def Instr.readsRandom : Instr → Bool
  | .rndImm _ _ => true
  | _ => false

end Sys2Proof

/-! ## Terms of single claims -/

namespace Sys2Proof.Machine

/-- The outcome with `f` applied to its next state. -/
def mapNext (f : State → State) : Outcome → Outcome
  | .next t => .next (f t)
  | .fault r => .fault r
  | .refused r => .refused r

/-- The sprite of `n` rows at `I`, drawn at `(vx, vy)`, has a set bit on the cell `(px, py)`: the cell's offset from the
start coordinate, modulo the display's size, is a column below 8 and a row below `n` whose bit is set (R123 to R125). -/
def State.spriteCovers (s : State) (vx vy : Byte) (n : Nat) (px : Fin 64) (py : Fin 32) : Bool :=
  let c := (px.val + 256 - vx.toNat) % 64
  let r := (py.val + 256 - vy.toNat) % 32
  decide (c < 8) && decide (r < n) && (s.mem.read (s.index.toNat + r)).getLsbD (7 - c)

/-- The `pc` that an error record names (R226). -/
def FatalError.pc : FatalError → Word
  | .decodeError pc _ => pc
  | .memoryBoundsError pc _ _ => pc
  | .stackError pc _ _ => pc

end Sys2Proof.Machine
end

