-- ==== Sys2Proof/Certificates/Slice0/Obligations.lean ====
section
/-! DEFINITION. The statements for the provers. Each docstring names the rules of spec/ a statement formalises, and, where
a clause rests on a decision the spec marks as its own (D<n> of 92_eei_decisions.md) or on a choice of this model, says so
and names the entry of the assumption log. -/

open Sys2Proof Sys2Proof.Machine

/-! ## Encoding (30_encoding.md) -/

/-- Decoding gives back every well-formed instruction from its word, and from its bytes with what follows them left over
(R70, R77, R78). That `8xy6` keeps its unused field `y` in the syntax is the model's choice (log 11). -/
def Obligations.DecodeOfEncode : Prop :=
  ∀ (i : Instr) (rest : List Byte), i.wellFormed = true →
    decodeWord (encode i) = .ok i ∧ decode (encodeBytes i ++ rest) = .ok (i, rest)

/-- Every word that decodes is the word of the instruction it decodes to: no bit of an opcode is dropped (R77, R88). That
`8xy6` keeps its unused field `y` in the syntax is the model's choice (log 11). -/
def Obligations.EncodeOfDecode : Prop :=
  ∀ (op : Word) (i : Instr), decodeWord op = .ok i → encode i = op

/-- R77: a word that belongs to a row of R78 decodes, to an instruction of the only row it belongs to, whose operand
fields are the word's bits at the places of R71; every other word is a failure that carries the word. -/
def Obligations.DecodeFollowsOpcodeMap : Prop :=
  ∀ op : Word,
    (∃ i, decodeWord op = .ok i ∧ (∃ r ∈ opcodeMap, r.covers op = true) ∧
      (∀ r ∈ opcodeMap, r.covers op = true ↔ r = i.row) ∧
      ∀ f ∈ i.fields, f.value = op.toNat / 2 ^ f.lo % 2 ^ f.width) ∨
    (decodeWord op = .error (.noRow op) ∧ ∀ r ∈ opcodeMap, r.covers op = false)

/-- R79: no 16-bit value matches two of the 27 patterns. -/
def Obligations.OpcodeMapDisjoint : Prop :=
  opcodeMap.length = 27 ∧
    ∀ r ∈ opcodeMap, ∀ q ∈ opcodeMap, ∀ op : Word, r.covers op = true → q.covers op = true → r = q

/-- R80 to R85: which words of each family decode. -/
def Obligations.DecodableWordsByFamily : Prop :=
  ∀ op : Word,
    (opA op = 0x0 → ((∃ i, decodeWord op = .ok i) ↔ op = 0x00E0 ∨ op = 0x00EE)) ∧
    (opA op = 0x8 → ((∃ i, decodeWord op = .ok i) ↔ opD op ∈ [0x0, 0x2, 0x4, 0x5, 0x6])) ∧
    (opA op = 0x9 → ((∃ i, decodeWord op = .ok i) ↔ opD op = 0x0)) ∧
    (opA op = 0xE → ((∃ i, decodeWord op = .ok i) ↔ opKk op ∈ [0x9E, 0xA1])) ∧
    (opA op = 0xF → ((∃ i, decodeWord op = .ok i) ↔ opKk op ∈ [0x07, 0x0A, 0x15, 0x1E, 0x29, 0x33, 0x55, 0x65])) ∧
    (opA op ∈ [0x5, 0xB] → decodeWord op = .error (.noRow op)) ∧
    (opA op ∈ [0x1, 0x2, 0x3, 0x4, 0x6, 0x7, 0xA, 0xC, 0xD] → ∃ i, decodeWord op = .ok i) ∧
    ((¬ ∃ i, decodeWord op = .ok i) → decodeWord op = .error (.noRow op))

/-- A few words, written out from the rows of R78 (95_test_vectors.md V1, V9, V13, V17). V9 gives `8126` and `81F6` the same
reading, SHR V1; that the instruction keeps its unused field `y` in the syntax is the model's choice (log 11). -/
def Obligations.SampleWordsDecode : Prop :=
  decode [0x12, 0x34] = .ok (.jp 0x234, []) ∧
  decode [0x81, 0x26] = .ok (.shr 1 2, []) ∧
  decode [0xD1, 0x25] = .ok (.drw 1 2 5, []) ∧
  decode [0xFA, 0x15] = .ok (.ldToDt 10, []) ∧
  decode [0xF1, 0x18] = .error (.noRow 0xF118)

/-! ## Reset and load (70_reset_and_hazards.md) -/

/-- R261: the registers after reset. Every value but `pc` is the spec's own decision D5 (log 8). -/
def Obligations.ResetRegisters : Prop :=
  State.reset.pc = 0x200 ∧ (∀ r, State.reset.reg r = 0) ∧ State.reset.index = 0 ∧ State.reset.sp = 0 ∧
  (∀ j : Fin 16, State.reset.stack[j] = 0) ∧ State.reset.dt = 0 ∧ State.reset.st = 0 ∧
  (∀ x y, State.reset.pixel x y = false) ∧ State.reset.mode = .running

/-- R261 to R263: the memory after reset, the 80 bytes of the font of R262 at their addresses and zero from `0x050` on. The
glyph bytes, their base and the zeros are the spec's own decisions D4, D3 and D5 (logs 5, 7 and 8). -/
def Obligations.ResetMemory : Prop :=
  State.reset.mem.readBytes 0x000 5 = [0xF0, 0x90, 0x90, 0x90, 0xF0] ∧
  State.reset.mem.readBytes 0x005 5 = [0x20, 0x60, 0x20, 0x20, 0x70] ∧
  State.reset.mem.readBytes 0x00A 5 = [0xF0, 0x10, 0xF0, 0x80, 0xF0] ∧
  State.reset.mem.readBytes 0x00F 5 = [0xF0, 0x10, 0xF0, 0x10, 0xF0] ∧
  State.reset.mem.readBytes 0x014 5 = [0x90, 0x90, 0xF0, 0x10, 0x10] ∧
  State.reset.mem.readBytes 0x019 5 = [0xF0, 0x80, 0xF0, 0x10, 0xF0] ∧
  State.reset.mem.readBytes 0x01E 5 = [0xF0, 0x80, 0xF0, 0x90, 0xF0] ∧
  State.reset.mem.readBytes 0x023 5 = [0xF0, 0x10, 0x20, 0x40, 0x40] ∧
  State.reset.mem.readBytes 0x028 5 = [0xF0, 0x90, 0xF0, 0x90, 0xF0] ∧
  State.reset.mem.readBytes 0x02D 5 = [0xF0, 0x90, 0xF0, 0x10, 0xF0] ∧
  State.reset.mem.readBytes 0x032 5 = [0xF0, 0x90, 0xF0, 0x90, 0x90] ∧
  State.reset.mem.readBytes 0x037 5 = [0xE0, 0x90, 0xE0, 0x90, 0xE0] ∧
  State.reset.mem.readBytes 0x03C 5 = [0xF0, 0x80, 0x80, 0x80, 0xF0] ∧
  State.reset.mem.readBytes 0x041 5 = [0xE0, 0x90, 0x90, 0x90, 0xE0] ∧
  State.reset.mem.readBytes 0x046 5 = [0xF0, 0x80, 0xF0, 0x80, 0xF0] ∧
  State.reset.mem.readBytes 0x04B 5 = [0xF0, 0x80, 0xF0, 0x80, 0x80] ∧
  ∀ a, 0x50 ≤ a → State.reset.mem.read a = 0

/-- R264, R265: a ROM of at most 3583 bytes is loaded verbatim from `0x200` and nothing else changes; a longer one is
refused (the spec's own decision D32, log 34). -/
def Obligations.LoadPlacesRom : Prop :=
  ∀ (s : State) (rom : List Byte), s.mem.wf →
    (rom.length ≤ 3583 → ∃ t, s.load rom = .next t ∧ t.mem.wf ∧ t.pc = s.pc ∧ t.result = s.result ∧
      Frame noReg [] (bytesFrom 0x200 rom.length) s t ∧
      ∀ j, (h : j < rom.length) → t.mem.read (0x200 + j) = rom[j]) ∧
    (3583 < rom.length → s.load rom = .refused (.romTooLong rom.length))

/-! ## One step (40_execution_cycle.md, 60_exceptions.md) -/

/-- A step runs the decoded instruction: in the Executor's turn, where the two bytes at `pc` decode to the well-formed
instruction `i` (R100, R102 to R104), the step of a running machine is `exec i` on the state with the inputs sampled
(R111); the sample changes nothing but the inputs and the model's two counters. That the inputs and the number of
ticks that follow come from free values is the model's own form of R16 and R234 (logs 2 and 3); that an odd `pc` runs
is the spec's own decision D23 (log 26). -/
def Obligations.StepRunsDecodedInstruction : Prop :=
  ∀ (s : State) (i : Instr), s.ticksDue = 0 → s.mode = .running → s.pc.toNat + 1 < Config.memSize →
    i.wellFormed = true → decode (s.mem.readBytes s.pc.toNat 2) = .ok (i, []) →
    step s = exec i s.admitHost ∧
    s.admitHost = { s with
      keys := Config.keyLevels s.stepCount
      rnd := Config.randomByte s.stepCount
      stepCount := s.stepCount + 1
      ticksDue := Config.ticksAfter s.stepCount }

/-- R233, R236: a tick is a transition of its own. While ticks are due, a step of the machine is one tick: it takes one off
each timer, stops at 0, and writes nothing else but the count of the ticks that are left. In the Executor's turn the step
is `executorStep` on the timers as the last transition left them, and no timer is decremented: whatever state it answers
has the same `ST`, and the same `DT` unless the instruction is `Fx15`, which writes `Vx` (R32, R204). The common tick is
the spec's own decision D20 (log 23), that no instruction writes `ST` its decision D21 (log 24), and the count of the ticks
due the model's form of the interleaving (log 3). -/
def Obligations.TickIsOwnTransition : Prop :=
  ∀ s : State,
    (∀ n, s.ticksDue = n + 1 →
      ∃ t, step s = .next t ∧ t = { s with dt := t.dt, st := t.st, ticksDue := n } ∧
        t.dt.toNat = s.dt.toNat - 1 ∧ t.st.toNat = s.st.toNat - 1) ∧
    (s.ticksDue = 0 → step s = executorStep s.admitHost ∧ s.admitHost.dt = s.dt ∧ s.admitHost.st = s.st ∧
      ∀ t, step s = .next t → t.st = s.st ∧
        (t.dt = s.dt ∨ ∃ x, fetchDecode s = .ok (.ldToDt x) ∧ t.dt = s.reg x))

/-- R234, R236, R237: after as many transitions as ticks are due, in every mode, it is the Executor's turn, each of them
has taken one off each timer that was not 0 (R233), so no tick is lost, and nothing else has changed. How many are due is
free (logs 3 and 32); that a tick takes one off both timers is the spec's own decision D20 (log 23), and that ticks go on
after a fatal error its decision D36 (log 36). -/
def Obligations.TicksDueAllHappen : Prop :=
  ∀ s : State, ∃ t, core.run s.ticksDue s = .next t ∧ t = { s with dt := t.dt, st := t.st, ticksDue := 0 } ∧
    t.dt.toNat = s.dt.toNat - s.ticksDue ∧ t.st.toNat = s.st.toNat - s.ticksDue

/-- R55: `Fetch(pc)`, its bounds check, and the opcode `concat(mem[pc], mem[pc+1])`. The size of memory is the spec's
own decision D2 (log 6), an odd `pc` D23 (log 26). -/
def Obligations.FetchReadsBigEndianWord : Prop :=
  ∀ (m : Memory) (pc : Word),
    (Config.memSize ≤ pc.toNat + 1 →
      fetch m pc = .error (if Config.memSize ≤ pc.toNat then pc.toNat else pc.toNat + 1)) ∧
    (pc.toNat + 1 < Config.memSize →
      ∃ op, fetch m pc = .ok op ∧ op.toNat = (m.read pc.toNat).toNat * 256 + (m.read (pc.toNat + 1)).toNat) ∧
    Config.memSize = 4095

/-- R53, R54: a read or a write of one byte raises exactly at and above `MEM_SIZE`, with the address; a write leaves the
byte at its address and every other byte alone. -/
def Obligations.MemoryAccessChecked : Prop :=
  ∀ (m : Memory) (a : Nat) (v : Byte), m.wf →
    (Config.memSize ≤ a → memRead m a = .error a ∧ memWrite m a v = .error a) ∧
    (a < Config.memSize → memRead m a = .ok (m.read a) ∧
      ∃ m', memWrite m a v = .ok m' ∧ m'.wf ∧ memRead m' a = .ok v ∧ ∀ k, k ≠ a → memRead m' k = memRead m k)

/-- R102, R223, R224, R227: in the Executor's turn, a fetch out of bounds raises MemoryBoundsError with no opcode,
before anything is decoded; a fetched word that does not decode raises DecodeError with `pc` and the word. The
record's fields are the spec's own decision D17 (log 20), the priority of the errors and the lowest address its
decision D35 (log 36); that raising is a next state with only `mode` and the result written is log 1. -/
def Obligations.StepRaisesFetchAndDecodeErrors : Prop :=
  ∀ s : State, s.ticksDue = 0 → s.mode = .running →
    (∀ a, fetch s.mem s.pc = .error a →
      step s = .next (s.admitHost.faultWith (.memoryBoundsError s.pc none a))) ∧
    (∀ op, fetch s.mem s.pc = .ok op → (∀ i, decodeWord op ≠ .ok i) →
      step s = .next (s.admitHost.faultWith (.decodeError s.pc op)))

/-- R101, R230, R237: in the Executor's turn, a step of a faulted machine changes nothing of the CORE (only the inputs and
the model's counters) and returns the same `Fatal(e)`; in the timer unit's turn the tick happens as ever (R233). The sticky
fault and the ticks after it are the spec's own decisions D16 and D36 (logs 19 and 36), and that a tick takes one off both
timers is its decision D20 (log 23). -/
def Obligations.FaultedStaysFaulted : Prop :=
  ∀ (s : State) (e : FatalError), s.mode = .faulted e →
    (s.ticksDue = 0 → ∃ t, step s = .next t ∧ t.result = some (.fatal e) ∧ t.mode = s.mode ∧ t.pc = s.pc ∧ t.v = s.v ∧
      t.index = s.index ∧ t.stack = s.stack ∧ t.sp = s.sp ∧ t.disp = s.disp ∧ t.mem = s.mem ∧ t.dt = s.dt ∧
      t.st = s.st) ∧
    (∀ n, s.ticksDue = n + 1 → ∃ t, step s = .next t ∧ t = { s with dt := t.dt, st := t.st, ticksDue := n } ∧
      t.dt.toNat = s.dt.toNat - 1 ∧ t.st.toNat = s.st.toNat - 1)

/-- A step of the machine always has a next state. In the Executor's turn it returns `Ok`, `Wait` or `Fatal(e)` (R100);
`Fatal(e)` exactly when the mode after it is `Faulted(e)`, and otherwise a frame is ready (R108). In the timer unit's turn
it returns nothing to the host, and the mode and the last result stay. Raising as a next state is log 1; the frame after
`Ok` and `Wait` is the spec's own decision D31 (log 33); `KEY_OOR = NOT_PRESSED`, without which `Ex9E` and `ExA1` could be
refused, is its decision D18 (log 21). -/
def Obligations.StepAlwaysAnswers : Prop :=
  ∀ s : State, ∃ t, step s = .next t ∧
    (s.ticksDue = 0 → ∃ r, t.result = some r ∧ (∀ e, r = .fatal e ↔ t.mode = .faulted e) ∧
      (t.frameReady = true ↔ t.mode = .running)) ∧
    (s.ticksDue ≠ 0 → t.mode = s.mode ∧ t.result = s.result)

/-- R222: a step that raises is the Executor's; it writes nothing but `mode` and what it returns (beside the inputs
and the model's counters), and its record names the `pc` of the instruction, which `pc` still addresses.
Check-then-commit is the spec's own decision D15 (log 18), the fields of the record, `pc` among them, its decision D17
(log 20; R226). -/
def Obligations.RaisingStepWritesOnlyMode : Prop :=
  ∀ (s t : State) (e : FatalError), s.mode = .running → step s = .next t → t.mode = .faulted e →
    s.ticksDue = 0 ∧ t = { s.admitHost with mode := .faulted e, result := some (.fatal e) } ∧ e.pc = s.pc

/-- R205, R206: with no key down in its sample, a step at `Fx0A` writes nothing, returns `Wait`, and leaves the next step
of the Executor at the same `Fx0A`; once a key is down, the step stores the code of a key that is down and advances `pc`.
That a key held down from before satisfies it, the test of the level, is the spec's own decision D19 (log 22). -/
def Obligations.WaitStepWritesNothing : Prop :=
  ∀ (s : State) (x : Reg), s.mode = .running → fetchDecode s = .ok (.ldKey x) →
    ((∀ k : Fin 16, s.keys[k] = false) →
      executorStep s = .next { s with result := some .wait } ∧
      fetchDecode { s with result := some .wait } = .ok (.ldKey x)) ∧
    ((∃ k : Fin 16, s.keys[k] = true) →
      ∃ t, executorStep s = .next t ∧ t.result = some .ok ∧ t.pc = s.pc + 2 ∧
        ∃ k : Fin 16, s.keys[k] = true ∧ (t.reg x).toNat = k.val)

/-! ## The invariant -/

/-- The invariant holds after reset. That `ST` is 0 and the mode `Running` after reset is the spec's own decision D5
(log 8), and that no result is recorded then is the model's choice (log 37). -/
def Obligations.ResetSatisfiesInvariant : Prop := State.reset.Inv

/-- Every step keeps the invariant: the memory's canonical form, the sound timer at 0 (R33, R208: the spec's own
decision D21, log 24), and `Fatal(e)` returned exactly in the mode `Faulted(e)` (the field `result` is the model's
own, log 4). -/
def Obligations.StepKeepsInvariant : Prop :=
  ∀ s t : State, s.Inv → step s = .next t → t.Inv

/-! ## Rules about all instructions -/

/-- R121: no instruction other than `00E0` and `Dxyn` may mutate the display. -/
def Obligations.DisplayWritersOnly : Prop :=
  ∀ (i : Instr) (s t : State), exec i s = .next t → t.disp ≠ s.disp → i = .cls ∨ ∃ x y n, i = .drw x y n

/-- R25: `I` is written by `Annn`, `Fx1E` and `Fx29` alone; that `Fx55` and `Fx65` leave it is the spec's own decision D11
(log 14). -/
def Obligations.IndexWritersOnly : Prop :=
  ∀ (i : Instr) (s t : State), exec i s = .next t → t.index ≠ s.index →
    (∃ nnn, i = .ldIndex nnn) ∨ (∃ x, i = .addIndex x) ∨ ∃ x, i = .ldFont x

/-- R30, R148: no instruction other than `2nnn` and `00EE` touches the call stack, and `00EE` leaves the entries as they
are (a popped entry stays: the spec's own decision D26, log 29). -/
def Obligations.StackWritersOnly : Prop :=
  ∀ (i : Instr) (s t : State), exec i s = .next t →
    (t.sp ≠ s.sp → i = .ret ∨ ∃ nnn, i = .call nnn) ∧ (t.stack ≠ s.stack → ∃ nnn, i = .call nnn)

/-- R32, R208: the delay timer is written by `Fx15` alone, and the sound timer by no instruction; that no instruction sets
`ST` is the spec's own decision D21 (log 24). -/
def Obligations.TimerWritersOnly : Prop :=
  ∀ (i : Instr) (s t : State), exec i s = .next t → t.st = s.st ∧ (t.dt ≠ s.dt → ∃ x, i = .ldToDt x)

/-- R24: the registers an instruction writes. The table is marked as derived in the spec, and the destinations where
`x` is `0xF` follow its decision D6 (log 9); that `8xy0` and `8xy2` write no flag is D9 (log 12). -/
def Obligations.RegisterWritersOnly : Prop :=
  ∀ (i : Instr) (s t : State) (r : Reg), exec i s = .next t → t.reg r ≠ s.reg r → i.writesReg r

/-- R24: the registers an instruction reads: with any other register changed, what it does to the registers it writes and
to everything else is the same. The table is marked as derived in the spec. -/
def Obligations.RegisterReadersOnly : Prop :=
  ∀ (i : Instr) (s t : State) (w : Vector Byte 16), (∀ r, i.readsReg r → w[r] = s.reg r) → exec i s = .next t →
    ∃ u, exec i (s.setRegs w) = .next u ∧ u.setRegs t.v = t ∧
      (∀ r, ¬ i.writesReg r → u.reg r = w[r]) ∧
      (t.result = some .ok → ∀ r, i.writesReg r → u.reg r = t.reg r)

/-- R58, R62: a byte of memory changes only under `Fx33` and `Fx55`, inside the bytes they store to. The table of R58 is
marked as derived in the spec. -/
def Obligations.MemoryWritersOnly : Prop :=
  ∀ (i : Instr) (s t : State) (a : Nat), exec i s = .next t → t.mem.read a ≠ s.mem.read a → i.writesByte s a

/-- R35, R168, R239, R208: the keypad is read by `Ex9E`, `ExA1` and `Fx0A` alone, the random source by `Cxkk` alone, and
the sound timer by no instruction. That nothing reads `ST` is the spec's own decision D21 (log 24). -/
def Obligations.InputsReadOnlyByTheirInstructions : Prop :=
  ∀ (i : Instr) (s : State) (keys : Vector Bool 16) (rnd st : Byte),
    (i.readsKeys = false → exec i { s with keys := keys } = mapNext (fun t => { t with keys := keys }) (exec i s)) ∧
    (i.readsRandom = false → exec i { s with rnd := rnd } = mapNext (fun t => { t with rnd := rnd }) (exec i s)) ∧
    exec i { s with st := st } = mapNext (fun t => { t with st := st }) (exec i s)

/-! ## Timers (60_exceptions.md) -/

/-- R233 to R235: `n` ticks are `tick` repeated `n` times, a tick takes one off each timer and never goes below zero, and a
timer at `N` is 0 from the `N`-th tick on. One common tick for both timers is the spec's own decision D20 (log 23). -/
def Obligations.TicksAreRepeatedTicks : Prop :=
  ∀ (n : Nat) (s : State),
    s.ticks n = State.tick^[n] s ∧
    s.tick.dt.toNat = s.dt.toNat - 1 ∧ s.tick.st.toNat = s.st.toNat - 1 ∧
    (s.dt.toNat ≤ n → (s.ticks n).dt = 0) ∧ (n < s.dt.toNat → (s.ticks n).dt.toNat = s.dt.toNat - n)

/-- R32: across a step the delay timer never increases, unless it is the Executor's turn and the step executes `Fx15`. -/
def Obligations.DelayTimerOnlyRaisedByWrite : Prop :=
  ∀ s t : State, step s = .next t → s.dt.toNat < t.dt.toNat →
    s.ticksDue = 0 ∧ ∃ x, fetchDecode s = .ok (.ldToDt x)

/-! ## Display (41_display.md) -/

/-- R122: `00E0` turns every pixel off, and completes in every state. -/
def Obligations.ClsClearsDisplay : Prop :=
  RowDecodes 0x00E0 0xFFFF (fun _ => .cls) ∧
  ∀ s : State, ∃ t, exec .cls s = .next t ∧ t.result = some .ok ∧ t.pc = s.pc + 2 ∧
    (∀ x y, t.pixel x y = false) ∧ Frame noReg [.display] noByte s t

/-- R123 to R127, R129: `Dxyn` completes when it reads no byte or only bytes inside the memory; it toggles exactly the
cells under the sprite's set bits, wrapping on both axes, and leaves in `VF` whether one of them was on. The wrap is the
spec's own decision D13 (log 16), `n = 0` D14 (log 17), `x` or `y` equal to `0xF` D6 (log 9). -/
def Obligations.DrwDrawsSprite : Prop :=
  RowDecodes 0xD000 0xF000 (fun op => .drw (opX op) (opY op) (opN op)) ∧
  ∀ (s : State) (x y : Reg) (n : Fin 16), n = 0 ∨ s.index.toNat + n.val ≤ Config.memSize →
    ∃ t, exec (.drw x y n) s = .next t ∧ t.result = some .ok ∧ t.pc = s.pc + 2 ∧
      (∀ px py, t.pixel px py = (s.pixel px py ^^ s.spriteCovers (s.reg x) (s.reg y) n.val px py)) ∧
      ((t.reg regF = 1 ∧ ∃ px py, s.spriteCovers (s.reg x) (s.reg y) n.val px py = true ∧ s.pixel px py = true) ∨
        (t.reg regF = 0 ∧ ∀ px py, s.spriteCovers (s.reg x) (s.reg y) n.val px py = true → s.pixel px py = false)) ∧
      Frame (onlyReg regF) [.display] noByte s t

/-- R123, R128: a `Dxyn` that would read a byte outside the memory raises MemoryBoundsError with the lowest such
address, and changes no pixel and no register. Check-then-commit is the spec's own decision D15 (log 18), the record
D17 (log 20), exact addresses D24 (log 27); raising as a next state is log 1. -/
def Obligations.DrwRaisesOutOfBounds : Prop :=
  ∀ (s : State) (x y : Reg) (n : Fin 16), n ≠ 0 → Config.memSize < s.index.toNat + n.val →
    exec (.drw x y n) s = .next { s with
      mode := .faulted (.memoryBoundsError s.pc (some (encode (.drw x y n))) (max s.index.toNat Config.memSize))
      result := some (.fatal
        (.memoryBoundsError s.pc (some (encode (.drw x y n))) (max s.index.toNat Config.memSize))) }

/-- R123, R126, R127, R129 (W4 of 95_test_vectors.md): the same `Dxyn` a second time, its coordinates not in `VF`,
gives the display back, and `VF` then says whether the first one turned some pixel on. The wrap is the spec's own
decision D13 (log 16), `n = 0` its decision D14 (log 17). -/
def Obligations.DrwTwiceRestoresDisplay : Prop :=
  ∀ (s : State) (x y : Reg) (n : Fin 16), x ≠ regF → y ≠ regF → n = 0 ∨ s.index.toNat + n.val ≤ Config.memSize →
    ∃ t u, exec (.drw x y n) s = .next t ∧ exec (.drw x y n) t = .next u ∧
      (∀ px py, u.pixel px py = s.pixel px py) ∧
      (u.reg regF = 1 ↔ ∃ px py, s.pixel px py = false ∧ t.pixel px py = true)

/-- R34, R120, R38: the view of the display is the flat sequence of its 2048 cells, cell `(x, y)` at `y * 64 + x` (the
spec's own decision D27, log 30), and the introspection surface shows every byte of the memory at its address, the sixteen
registers, `pc`, `I`, the sixteen stack entries, `SP`, `DT` and `ST`. -/
def Obligations.ViewsShowTheState : Prop :=
  ∀ s : State, s.view.length = 2048 ∧
    (∀ (x : Fin 64) (y : Fin 32), s.view[y.val * 64 + x.val]? = some (s.pixel x y)) ∧
    s.introspect.mem.length = Config.memSize ∧
    (∀ a, a < Config.memSize → s.introspect.mem[a]? = some (s.mem.read a)) ∧
    s.introspect.v.length = 16 ∧ (∀ r : Reg, s.introspect.v[r.val]? = some (s.reg r)) ∧
    s.introspect.pc = s.pc ∧ s.introspect.index = s.index ∧
    s.introspect.stack.length = 16 ∧ (∀ j : Fin 16, s.introspect.stack[j.val]? = some s.stack[j]) ∧
    s.introspect.sp = s.sp.val ∧ s.introspect.dt = s.dt ∧ s.introspect.st = s.st

/-! ## Control transfer (42_control_flow.md) -/

/-- R140: `00EE` pops the most recent return address into `pc` and leaves the entry; with the stack empty it raises
StackError, `SP` and `pc` unchanged. That the popped entry stays and the geometry of the stack are the spec's own
decision D26 (log 29; R31), the record its decision D17 (log 20), and raising as a next state is log 1. -/
def Obligations.RetPopsOrRaises : Prop :=
  RowDecodes 0x00EE 0xFFFF (fun _ => .ret) ∧
  ∀ s : State,
    (0 < s.sp.val → ∃ t, exec .ret s = .next t ∧ t.result = some .ok ∧ t.sp.val = s.sp.val - 1 ∧
      s.stack[s.sp.val - 1]? = some t.pc ∧ t.stack = s.stack ∧ Frame noReg [.callStack] noByte s t) ∧
    (s.sp.val = 0 → exec .ret s = .next { s with
      mode := .faulted (.stackError s.pc 0x00EE .underflow)
      result := some (.fatal (.stackError s.pc 0x00EE .underflow)) })

/-- R141: `1nnn` sets `pc` to `nnn`, in every state. -/
def Obligations.JpSetsPc : Prop :=
  RowDecodes 0x1000 0xF000 (fun op => .jp (opNnn op)) ∧
  ∀ (s : State) (nnn : Addr), ∃ t, exec (.jp nnn) s = .next t ∧ t.result = some .ok ∧ t.pc.toNat = nnn.toNat ∧
    Frame noReg [] noByte s t

/-- R142: `2nnn` pushes the address of the following instruction and sets `pc` to `nnn`; with 16 entries on the stack
it raises StackError, the stack, `SP` and `pc` unchanged. The sixteen usable entries of 16 bits are the spec's own
decision D26 (log 29; R31, C1 of 90_conflicts.md), the record its decision D17 (log 20), and raising as a next state
is log 1. -/
def Obligations.CallPushesOrRaises : Prop :=
  RowDecodes 0x2000 0xF000 (fun op => .call (opNnn op)) ∧
  ∀ (s : State) (nnn : Addr),
    (s.sp.val < 16 → ∃ t, exec (.call nnn) s = .next t ∧ t.result = some .ok ∧ t.sp.val = s.sp.val + 1 ∧
      t.stack[s.sp.val]? = some (s.pc + 2) ∧ (∀ j, j ≠ s.sp.val → t.stack[j]? = s.stack[j]?) ∧
      t.pc.toNat = nnn.toNat ∧ Frame noReg [.callStack] noByte s t) ∧
    (s.sp.val = 16 → exec (.call nnn) s = .next { s with
      mode := .faulted (.stackError s.pc (encode (.call nnn)) .overflow)
      result := some (.fatal (.stackError s.pc (encode (.call nnn)) .overflow)) })

/-- R148: `00EE` after `2nnn` returns `pc` to the address immediately following the call, with the stack pointer and
every stack entry as they were before the call, but for the entry that the call pushed to: it keeps the return
address, stale (R31). The stale entry and the sixteen usable entries are the spec's own decision D26 (log 29). -/
def Obligations.RetAfterCallReturns : Prop :=
  ∀ (s : State) (nnn : Addr), s.sp.val < 16 →
    ∃ t u, exec (.call nnn) s = .next t ∧ exec .ret t = .next u ∧ u.pc = s.pc + 2 ∧ u.sp = s.sp ∧
      (∀ j, j ≠ s.sp.val → u.stack[j]? = s.stack[j]?) ∧ u.stack[s.sp.val]? = some (s.pc + 2) ∧
      Frame noReg [.callStack] noByte s u

/-- R143, R144, R146: the skips on an immediate complete in every state, `pc + 4` when the condition holds and else
`pc + 2`, and write nothing else. -/
def Obligations.ImmediateSkips : Prop :=
  RowDecodes 0x3000 0xF000 (fun op => .seImm (opX op) (opKk op)) ∧
  RowDecodes 0x4000 0xF000 (fun op => .sneImm (opX op) (opKk op)) ∧
  ∀ (s : State) (x : Reg) (kk : Byte),
    (∃ t, exec (.seImm x kk) s = .next t ∧ t.result = some .ok ∧ Frame noReg [] noByte s t ∧
      (s.reg x = kk → t.pc = s.pc + 4) ∧ (s.reg x ≠ kk → t.pc = s.pc + 2)) ∧
    ∃ t, exec (.sneImm x kk) s = .next t ∧ t.result = some .ok ∧ Frame noReg [] noByte s t ∧
      (s.reg x ≠ kk → t.pc = s.pc + 4) ∧ (s.reg x = kk → t.pc = s.pc + 2)

/-- R145: the skip on two registers, in every state. -/
def Obligations.RegisterSkip : Prop :=
  RowDecodes 0x9000 0xF00F (fun op => .sneReg (opX op) (opY op)) ∧
  ∀ (s : State) (x y : Reg),
    ∃ t, exec (.sneReg x y) s = .next t ∧ t.result = some .ok ∧ Frame noReg [] noByte s t ∧
      (s.reg x ≠ s.reg y → t.pc = s.pc + 4) ∧ (s.reg x = s.reg y → t.pc = s.pc + 2)

/-! ## Registers and arithmetic (43_alu.md) -/

/-- R161: `6xkk` stores the immediate, in every state. -/
def Obligations.LoadImmediate : Prop :=
  RowDecodes 0x6000 0xF000 (fun op => .ldImm (opX op) (opKk op)) ∧
  ∀ (s : State) (x : Reg) (kk : Byte), ∃ t, exec (.ldImm x kk) s = .next t ∧ t.result = some .ok ∧ t.pc = s.pc + 2 ∧
    t.reg x = kk ∧ Frame (onlyReg x) [] noByte s t

/-- R162: `7xkk` adds the immediate modulo 256, with no flag, in every state. -/
def Obligations.AddImmediateWraps : Prop :=
  RowDecodes 0x7000 0xF000 (fun op => .addImm (opX op) (opKk op)) ∧
  ∀ (s : State) (x : Reg) (kk : Byte), ∃ t, exec (.addImm x kk) s = .next t ∧ t.result = some .ok ∧ t.pc = s.pc + 2 ∧
    (t.reg x).toNat = ((s.reg x).toNat + kk.toNat) % 256 ∧ Frame (onlyReg x) [] noByte s t

/-- R163, R164: `8xy0` copies and `8xy2` takes the bitwise AND, in every state; that neither writes a flag is the spec's
own decision D9 (log 12). -/
def Obligations.MoveAndAnd : Prop :=
  RowDecodes 0x8000 0xF00F (fun op => .ldReg (opX op) (opY op)) ∧
  RowDecodes 0x8002 0xF00F (fun op => .andReg (opX op) (opY op)) ∧
  ∀ (s : State) (x y : Reg),
    (∃ t, exec (.ldReg x y) s = .next t ∧ t.result = some .ok ∧ t.pc = s.pc + 2 ∧ t.reg x = s.reg y ∧
      Frame (onlyReg x) [] noByte s t) ∧
    ∃ t, exec (.andReg x y) s = .next t ∧ t.result = some .ok ∧ t.pc = s.pc + 2 ∧
      (∀ b, (t.reg x).getLsbD b = ((s.reg x).getLsbD b && (s.reg y).getLsbD b)) ∧ Frame (onlyReg x) [] noByte s t

/-- R165: `8xy4` leaves the sum modulo 256 in `Vx` and the carry in `VF`, in every state. With `x = 0xF` only the carry is
left: the spec's own decision D6 (log 9). -/
def Obligations.AddRegistersWithCarry : Prop :=
  RowDecodes 0x8004 0xF00F (fun op => .addReg (opX op) (opY op)) ∧
  ∀ (s : State) (x y : Reg), ∃ t, exec (.addReg x y) s = .next t ∧ t.result = some .ok ∧ t.pc = s.pc + 2 ∧
    (x ≠ regF → (t.reg x).toNat = ((s.reg x).toNat + (s.reg y).toNat) % 256) ∧
    (t.reg regF).toNat = ((s.reg x).toNat + (s.reg y).toNat) / 256 ∧ Frame (regAndFlag x) [] noByte s t

/-- R166: `8xy5` leaves the difference modulo 256 in `Vx` and the flag of `SUB_FLAG` in `VF`, in every state. The flag is
stated by cases on the value of `SUB_FLAG`, whose default `GE` is the spec's own decision D7 (log 10); with `x = 0xF` only
the flag is left, by D6 (log 9). -/
def Obligations.SubtractRegistersWithFlag : Prop :=
  RowDecodes 0x8005 0xF00F (fun op => .subReg (opX op) (opY op)) ∧
  ∀ (s : State) (x y : Reg), ∃ t, exec (.subReg x y) s = .next t ∧ t.result = some .ok ∧ t.pc = s.pc + 2 ∧
    (x ≠ regF → ((t.reg x).toNat + (s.reg y).toNat) % 256 = (s.reg x).toNat) ∧
    (t.reg regF = 0 ∨ t.reg regF = 1) ∧
    (t.reg regF = 1 ↔ match Config.subFlag with
      | .ge => (s.reg y).toNat ≤ (s.reg x).toNat
      | .gt => (s.reg y).toNat < (s.reg x).toNat
      | .borrow => (s.reg x).toNat < (s.reg y).toNat) ∧
    Frame (regAndFlag x) [] noByte s t

/-- R167: `8xy6` leaves the bit shifted out in `VF` and the halved value in `Vx`, in every state, whatever `Vy` holds. With
`x = 0xF` only the shifted value is left, by the spec's own decision D6 (log 9); that `y` is not used is D8 (log 11). -/
def Obligations.ShiftRightWithFlag : Prop :=
  RowDecodes 0x8006 0xF00F (fun op => .shr (opX op) (opY op)) ∧
  ∀ (s : State) (x y : Reg), ∃ t, exec (.shr x y) s = .next t ∧ t.result = some .ok ∧ t.pc = s.pc + 2 ∧
    (t.reg x).toNat = (s.reg x).toNat / 2 ∧
    (x ≠ regF → (t.reg regF).toNat = (s.reg x).toNat % 2) ∧ Frame (regAndFlag x) [] noByte s t

/-- R168: `Cxkk` leaves the draw and the immediate in `Vx`, in every state and so for every draw, with no flag; the draw is
a free value, by the spec's own decision D22 (log 25). -/
def Obligations.RandomAndImmediate : Prop :=
  RowDecodes 0xC000 0xF000 (fun op => .rndImm (opX op) (opKk op)) ∧
  ∀ (s : State) (x : Reg) (kk : Byte), ∃ t, exec (.rndImm x kk) s = .next t ∧ t.result = some .ok ∧ t.pc = s.pc + 2 ∧
    (∀ b, (t.reg x).getLsbD b = (s.rnd.getLsbD b && kk.getLsbD b)) ∧ Frame (onlyReg x) [] noByte s t

/-! ## Index register and memory (44_index_memory.md) -/

/-- R180: `Annn` sets `I` to `nnn`, in every state. -/
def Obligations.LoadIndex : Prop :=
  RowDecodes 0xA000 0xF000 (fun op => .ldIndex (opNnn op)) ∧
  ∀ (s : State) (nnn : Addr), ∃ t, exec (.ldIndex nnn) s = .next t ∧ t.result = some .ok ∧ t.pc = s.pc + 2 ∧
    t.index.toNat = nnn.toNat ∧ Frame noReg [.index] noByte s t

/-- R181, R182: `Fx1E` adds `Vx` to `I` modulo 2^16 with no flag, and `Fx29` sets `I` to `FONT_BASE + 5 Vx`, in every
state. The width and the missing flag are the spec's own decision D10 (log 13), `FONT_BASE = 0` D3 (log 7) and the full byte
D12 (log 15). -/
def Obligations.AddIndexAndGlyphAddress : Prop :=
  RowDecodes 0xF01E 0xF0FF (fun op => .addIndex (opX op)) ∧
  RowDecodes 0xF029 0xF0FF (fun op => .ldFont (opX op)) ∧
  ∀ (s : State) (x : Reg),
    (∃ t, exec (.addIndex x) s = .next t ∧ t.result = some .ok ∧ t.pc = s.pc + 2 ∧
      t.index.toNat = (s.index.toNat + (s.reg x).toNat) % 65536 ∧ Frame noReg [.index] noByte s t) ∧
    ∃ t, exec (.ldFont x) s = .next t ∧ t.result = some .ok ∧ t.pc = s.pc + 2 ∧
      t.index.toNat = 5 * (s.reg x).toNat ∧ Frame noReg [.index] noByte s t

/-- R183: `Fx33` stores the hundreds, tens and ones digits of `Vx` at `I`, `I + 1` and `I + 2` when all three lie
inside the memory; else it raises MemoryBoundsError with the lowest address outside it, and writes no byte.
Check-then-commit is the spec's own decision D15 (log 18), the record D17 (log 20), exact addresses D24 (log 27), no
write protection D25 (log 28); raising as a next state is log 1. -/
def Obligations.BcdStoresDigits : Prop :=
  RowDecodes 0xF033 0xF0FF (fun op => .ldBcd (opX op)) ∧
  ∀ (s : State) (x : Reg), s.mem.wf →
    (s.index.toNat + 2 < Config.memSize → ∃ t, exec (.ldBcd x) s = .next t ∧ t.result = some .ok ∧ t.pc = s.pc + 2 ∧
      (t.mem.read s.index.toNat).toNat = (s.reg x).toNat / 100 ∧
      (t.mem.read (s.index.toNat + 1)).toNat = (s.reg x).toNat / 10 % 10 ∧
      (t.mem.read (s.index.toNat + 2)).toNat = (s.reg x).toNat % 10 ∧
      Frame noReg [] (bytesFrom s.index.toNat 3) s t) ∧
    (Config.memSize ≤ s.index.toNat + 2 → exec (.ldBcd x) s = .next { s with
      mode := .faulted (.memoryBoundsError s.pc (some (encode (.ldBcd x))) (max s.index.toNat Config.memSize))
      result := some (.fatal
        (.memoryBoundsError s.pc (some (encode (.ldBcd x))) (max s.index.toNat Config.memSize))) })

/-- R184: `Fx55` stores `V0..=Vx` at `I` and up when the whole range lies inside the memory; else it raises
MemoryBoundsError and writes no byte. That `I` is unchanged is the spec's own decision D11 (log 14), check-then-commit
D15 (log 18), the record D17 (log 20), exact addresses D24 (log 27), no write protection D25 (log 28); raising as a
next state is log 1. -/
def Obligations.StoreRegistersToMemory : Prop :=
  RowDecodes 0xF055 0xF0FF (fun op => .storeRegs (opX op)) ∧
  ∀ (s : State) (x : Reg), s.mem.wf →
    (s.index.toNat + x.val < Config.memSize → ∃ t, exec (.storeRegs x) s = .next t ∧ t.result = some .ok ∧
      t.pc = s.pc + 2 ∧ (∀ r, r ≤ x → t.mem.read (s.index.toNat + r.val) = s.reg r) ∧
      Frame noReg [] (bytesFrom s.index.toNat (x.val + 1)) s t) ∧
    (Config.memSize ≤ s.index.toNat + x.val → exec (.storeRegs x) s = .next { s with
      mode := .faulted (.memoryBoundsError s.pc (some (encode (.storeRegs x))) (max s.index.toNat Config.memSize))
      result := some (.fatal
        (.memoryBoundsError s.pc (some (encode (.storeRegs x))) (max s.index.toNat Config.memSize))) })

/-- R185: `Fx65` loads `V0..=Vx` from `I` and up when the whole range lies inside the memory, the other registers
untouched; else it raises MemoryBoundsError and writes no register. That `I` is unchanged is the spec's own decision
D11 (log 14), check-then-commit D15 (log 18), the record D17 (log 20), exact addresses D24 (log 27); raising as a next
state is log 1. -/
def Obligations.LoadRegistersFromMemory : Prop :=
  RowDecodes 0xF065 0xF0FF (fun op => .loadRegs (opX op)) ∧
  ∀ (s : State) (x : Reg),
    (s.index.toNat + x.val < Config.memSize → ∃ t, exec (.loadRegs x) s = .next t ∧ t.result = some .ok ∧
      t.pc = s.pc + 2 ∧ (∀ r, r ≤ x → t.reg r = s.mem.read (s.index.toNat + r.val)) ∧
      Frame (regsUpTo x) [] noByte s t) ∧
    (Config.memSize ≤ s.index.toNat + x.val → exec (.loadRegs x) s = .next { s with
      mode := .faulted (.memoryBoundsError s.pc (some (encode (.loadRegs x))) (max s.index.toNat Config.memSize))
      result := some (.fatal
        (.memoryBoundsError s.pc (some (encode (.loadRegs x))) (max s.index.toNat Config.memSize))) })

/-- W6 of 95_test_vectors.md, R184, R185: `Fx65` after `Fx55` with the same `x`, whatever the registers hold in
between, gives back exactly `V0..=Vx` and leaves the others. It rests on the spec's own decisions D11 (log 14), `I` is
unchanged, and D25 (log 28), no write protection. -/
def Obligations.LoadAfterStoreRestores : Prop :=
  ∀ (s : State) (x : Reg) (w : Vector Byte 16), s.mem.wf → s.index.toNat + x.val < Config.memSize →
    ∃ t u, exec (.storeRegs x) s = .next t ∧ exec (.loadRegs x) (t.setRegs w) = .next u ∧
      ∀ r : Reg, (r ≤ x → u.reg r = s.reg r) ∧ (x < r → u.reg r = w[r])

/-- R66, R268: an instruction stored by `Fx55` where `pc` goes next is what the next fetch reads. The spec marks R66 as
derived and rests it on its own decision D25 (log 28). -/
def Obligations.StoredInstructionIsFetched : Prop :=
  ∀ (s : State) (x : Reg) (k : Nat), s.mem.wf → s.index.toNat + x.val < Config.memSize → k + 1 ≤ x.val →
    (s.pc + 2).toNat = s.index.toNat + k →
    ∃ t, exec (.storeRegs x) s = .next t ∧
      fetch t.mem t.pc = .ok (concatBytes (s.reg (Fin.ofNat 16 k)) (s.reg (Fin.ofNat 16 (k + 1))))

/-! ## Keypad and timers (45_keypad_timers.md) -/

/-- R200 to R202, R146: the key skips complete in every state; a key number above 15 is never down, which is the spec's own
decision D18 for `KEY_OOR` (log 21). -/
def Obligations.KeySkips : Prop :=
  RowDecodes 0xE09E 0xF0FF (fun op => .skp (opX op)) ∧
  RowDecodes 0xE0A1 0xF0FF (fun op => .sknp (opX op)) ∧
  ∀ (s : State) (x : Reg),
    (∃ t, exec (.skp x) s = .next t ∧ t.result = some .ok ∧ Frame noReg [] noByte s t ∧
      (s.keys[(s.reg x).toNat]? = some true → t.pc = s.pc + 4) ∧
      (s.keys[(s.reg x).toNat]? ≠ some true → t.pc = s.pc + 2)) ∧
    ∃ t, exec (.sknp x) s = .next t ∧ t.result = some .ok ∧ Frame noReg [] noByte s t ∧
      (s.keys[(s.reg x).toNat]? = some true → t.pc = s.pc + 2) ∧
      (s.keys[(s.reg x).toNat]? ≠ some true → t.pc = s.pc + 4)

/-- R203, R204: `Fx07` reads the delay timer without changing it and `Fx15` sets it from `Vx`, in every state; that `Fx15`
does not re-phase the ticks is the spec's own decision D20 (log 23). -/
def Obligations.DelayTimerTransfers : Prop :=
  RowDecodes 0xF007 0xF0FF (fun op => .ldFromDt (opX op)) ∧
  RowDecodes 0xF015 0xF0FF (fun op => .ldToDt (opX op)) ∧
  ∀ (s : State) (x : Reg),
    (∃ t, exec (.ldFromDt x) s = .next t ∧ t.result = some .ok ∧ t.pc = s.pc + 2 ∧ t.reg x = s.dt ∧
      Frame (onlyReg x) [] noByte s t) ∧
    ∃ t, exec (.ldToDt x) s = .next t ∧ t.result = some .ok ∧ t.pc = s.pc + 2 ∧ t.dt = s.reg x ∧
      Frame noReg [.delayTimer] noByte s t

/-- R205, R207: with a key down `Fx0A` stores the lowest key that is down and completes; with none it waits and writes
nothing. The level test and the lowest key are the spec's own decision D19 (log 22). -/
def Obligations.KeyWaitStoresLowestKey : Prop :=
  RowDecodes 0xF00A 0xF0FF (fun op => .ldKey (opX op)) ∧
  ∀ (s : State) (x : Reg),
    (∀ k : Fin 16, s.keys[k] = true → (∀ j : Fin 16, j < k → s.keys[j] = false) →
      ∃ t, exec (.ldKey x) s = .next t ∧ t.result = some .ok ∧ t.pc = s.pc + 2 ∧ (t.reg x).toNat = k.val ∧
        Frame (onlyReg x) [] noByte s t) ∧
    ((∀ k : Fin 16, s.keys[k] = false) → exec (.ldKey x) s = .next { s with result := some .wait })
end

