-- ==== Sys2Proof/Laws/State.lean ====
section
/-! SUPPORT. What each named update of the state leaves in each field, true by definition: a proof never unfolds a record
update. -/

namespace Sys2Proof.Machine

/-! ### `setReg` -/

@[simp] theorem State.setReg_v (s : State) (r : Reg) (b : Byte) :
    (s.setReg r b).v = s.v.set r b := rfl
@[simp] theorem State.setReg_index (s : State) (r : Reg) (b : Byte) :
    (s.setReg r b).index = s.index := rfl
@[simp] theorem State.setReg_pc (s : State) (r : Reg) (b : Byte) :
    (s.setReg r b).pc = s.pc := rfl
@[simp] theorem State.setReg_stack (s : State) (r : Reg) (b : Byte) :
    (s.setReg r b).stack = s.stack := rfl
@[simp] theorem State.setReg_sp (s : State) (r : Reg) (b : Byte) :
    (s.setReg r b).sp = s.sp := rfl
@[simp] theorem State.setReg_dt (s : State) (r : Reg) (b : Byte) :
    (s.setReg r b).dt = s.dt := rfl
@[simp] theorem State.setReg_st (s : State) (r : Reg) (b : Byte) :
    (s.setReg r b).st = s.st := rfl
@[simp] theorem State.setReg_disp (s : State) (r : Reg) (b : Byte) :
    (s.setReg r b).disp = s.disp := rfl
@[simp] theorem State.setReg_mem (s : State) (r : Reg) (b : Byte) :
    (s.setReg r b).mem = s.mem := rfl
@[simp] theorem State.setReg_mode (s : State) (r : Reg) (b : Byte) :
    (s.setReg r b).mode = s.mode := rfl
@[simp] theorem State.setReg_keys (s : State) (r : Reg) (b : Byte) :
    (s.setReg r b).keys = s.keys := rfl
@[simp] theorem State.setReg_rnd (s : State) (r : Reg) (b : Byte) :
    (s.setReg r b).rnd = s.rnd := rfl
@[simp] theorem State.setReg_result (s : State) (r : Reg) (b : Byte) :
    (s.setReg r b).result = s.result := rfl
@[simp] theorem State.setReg_stepCount (s : State) (r : Reg) (b : Byte) :
    (s.setReg r b).stepCount = s.stepCount := rfl
@[simp] theorem State.setReg_ticksDue (s : State) (r : Reg) (b : Byte) :
    (s.setReg r b).ticksDue = s.ticksDue := rfl
@[simp] theorem State.setReg_pixel (s : State) (r : Reg) (b : Byte) (x : Fin 64) (y : Fin 32) :
    (s.setReg r b).pixel x y = s.pixel x y := rfl
@[simp] theorem State.setReg_dataAddr (s : State) (r : Reg) (b : Byte) :
    (s.setReg r b).dataAddr = s.dataAddr := rfl

/-! ### `setRegs` -/

@[simp] theorem State.setRegs_v (s : State) (w : Vector Byte 16) :
    (s.setRegs w).v = w := rfl
@[simp] theorem State.setRegs_index (s : State) (w : Vector Byte 16) :
    (s.setRegs w).index = s.index := rfl
@[simp] theorem State.setRegs_pc (s : State) (w : Vector Byte 16) :
    (s.setRegs w).pc = s.pc := rfl
@[simp] theorem State.setRegs_stack (s : State) (w : Vector Byte 16) :
    (s.setRegs w).stack = s.stack := rfl
@[simp] theorem State.setRegs_sp (s : State) (w : Vector Byte 16) :
    (s.setRegs w).sp = s.sp := rfl
@[simp] theorem State.setRegs_dt (s : State) (w : Vector Byte 16) :
    (s.setRegs w).dt = s.dt := rfl
@[simp] theorem State.setRegs_st (s : State) (w : Vector Byte 16) :
    (s.setRegs w).st = s.st := rfl
@[simp] theorem State.setRegs_disp (s : State) (w : Vector Byte 16) :
    (s.setRegs w).disp = s.disp := rfl
@[simp] theorem State.setRegs_mem (s : State) (w : Vector Byte 16) :
    (s.setRegs w).mem = s.mem := rfl
@[simp] theorem State.setRegs_mode (s : State) (w : Vector Byte 16) :
    (s.setRegs w).mode = s.mode := rfl
@[simp] theorem State.setRegs_keys (s : State) (w : Vector Byte 16) :
    (s.setRegs w).keys = s.keys := rfl
@[simp] theorem State.setRegs_rnd (s : State) (w : Vector Byte 16) :
    (s.setRegs w).rnd = s.rnd := rfl
@[simp] theorem State.setRegs_result (s : State) (w : Vector Byte 16) :
    (s.setRegs w).result = s.result := rfl
@[simp] theorem State.setRegs_stepCount (s : State) (w : Vector Byte 16) :
    (s.setRegs w).stepCount = s.stepCount := rfl
@[simp] theorem State.setRegs_ticksDue (s : State) (w : Vector Byte 16) :
    (s.setRegs w).ticksDue = s.ticksDue := rfl
@[simp] theorem State.setRegs_pixel (s : State) (w : Vector Byte 16) (x : Fin 64) (y : Fin 32) :
    (s.setRegs w).pixel x y = s.pixel x y := rfl
@[simp] theorem State.setRegs_dataAddr (s : State) (w : Vector Byte 16) :
    (s.setRegs w).dataAddr = s.dataAddr := rfl

/-! ### `setIndex` -/

@[simp] theorem State.setIndex_v (s : State) (w : Word) :
    (s.setIndex w).v = s.v := rfl
@[simp] theorem State.setIndex_index (s : State) (w : Word) :
    (s.setIndex w).index = w := rfl
@[simp] theorem State.setIndex_pc (s : State) (w : Word) :
    (s.setIndex w).pc = s.pc := rfl
@[simp] theorem State.setIndex_stack (s : State) (w : Word) :
    (s.setIndex w).stack = s.stack := rfl
@[simp] theorem State.setIndex_sp (s : State) (w : Word) :
    (s.setIndex w).sp = s.sp := rfl
@[simp] theorem State.setIndex_dt (s : State) (w : Word) :
    (s.setIndex w).dt = s.dt := rfl
@[simp] theorem State.setIndex_st (s : State) (w : Word) :
    (s.setIndex w).st = s.st := rfl
@[simp] theorem State.setIndex_disp (s : State) (w : Word) :
    (s.setIndex w).disp = s.disp := rfl
@[simp] theorem State.setIndex_mem (s : State) (w : Word) :
    (s.setIndex w).mem = s.mem := rfl
@[simp] theorem State.setIndex_mode (s : State) (w : Word) :
    (s.setIndex w).mode = s.mode := rfl
@[simp] theorem State.setIndex_keys (s : State) (w : Word) :
    (s.setIndex w).keys = s.keys := rfl
@[simp] theorem State.setIndex_rnd (s : State) (w : Word) :
    (s.setIndex w).rnd = s.rnd := rfl
@[simp] theorem State.setIndex_result (s : State) (w : Word) :
    (s.setIndex w).result = s.result := rfl
@[simp] theorem State.setIndex_stepCount (s : State) (w : Word) :
    (s.setIndex w).stepCount = s.stepCount := rfl
@[simp] theorem State.setIndex_ticksDue (s : State) (w : Word) :
    (s.setIndex w).ticksDue = s.ticksDue := rfl
@[simp] theorem State.setIndex_reg (s : State) (w : Word) (k : Reg) :
    (s.setIndex w).reg k = s.reg k := rfl
@[simp] theorem State.setIndex_pixel (s : State) (w : Word) (x : Fin 64) (y : Fin 32) :
    (s.setIndex w).pixel x y = s.pixel x y := rfl

/-! ### `setPc` -/

@[simp] theorem State.setPc_v (s : State) (w : Word) :
    (s.setPc w).v = s.v := rfl
@[simp] theorem State.setPc_index (s : State) (w : Word) :
    (s.setPc w).index = s.index := rfl
@[simp] theorem State.setPc_pc (s : State) (w : Word) :
    (s.setPc w).pc = w := rfl
@[simp] theorem State.setPc_stack (s : State) (w : Word) :
    (s.setPc w).stack = s.stack := rfl
@[simp] theorem State.setPc_sp (s : State) (w : Word) :
    (s.setPc w).sp = s.sp := rfl
@[simp] theorem State.setPc_dt (s : State) (w : Word) :
    (s.setPc w).dt = s.dt := rfl
@[simp] theorem State.setPc_st (s : State) (w : Word) :
    (s.setPc w).st = s.st := rfl
@[simp] theorem State.setPc_disp (s : State) (w : Word) :
    (s.setPc w).disp = s.disp := rfl
@[simp] theorem State.setPc_mem (s : State) (w : Word) :
    (s.setPc w).mem = s.mem := rfl
@[simp] theorem State.setPc_mode (s : State) (w : Word) :
    (s.setPc w).mode = s.mode := rfl
@[simp] theorem State.setPc_keys (s : State) (w : Word) :
    (s.setPc w).keys = s.keys := rfl
@[simp] theorem State.setPc_rnd (s : State) (w : Word) :
    (s.setPc w).rnd = s.rnd := rfl
@[simp] theorem State.setPc_result (s : State) (w : Word) :
    (s.setPc w).result = s.result := rfl
@[simp] theorem State.setPc_stepCount (s : State) (w : Word) :
    (s.setPc w).stepCount = s.stepCount := rfl
@[simp] theorem State.setPc_ticksDue (s : State) (w : Word) :
    (s.setPc w).ticksDue = s.ticksDue := rfl
@[simp] theorem State.setPc_reg (s : State) (w : Word) (k : Reg) :
    (s.setPc w).reg k = s.reg k := rfl
@[simp] theorem State.setPc_pixel (s : State) (w : Word) (x : Fin 64) (y : Fin 32) :
    (s.setPc w).pixel x y = s.pixel x y := rfl
@[simp] theorem State.setPc_dataAddr (s : State) (w : Word) :
    (s.setPc w).dataAddr = s.dataAddr := rfl

/-! ### `advance` -/

@[simp] theorem State.advance_v (s : State) (n : Word) :
    (s.advance n).v = s.v := rfl
@[simp] theorem State.advance_index (s : State) (n : Word) :
    (s.advance n).index = s.index := rfl
@[simp] theorem State.advance_pc (s : State) (n : Word) :
    (s.advance n).pc = s.pc + n := rfl
@[simp] theorem State.advance_stack (s : State) (n : Word) :
    (s.advance n).stack = s.stack := rfl
@[simp] theorem State.advance_sp (s : State) (n : Word) :
    (s.advance n).sp = s.sp := rfl
@[simp] theorem State.advance_dt (s : State) (n : Word) :
    (s.advance n).dt = s.dt := rfl
@[simp] theorem State.advance_st (s : State) (n : Word) :
    (s.advance n).st = s.st := rfl
@[simp] theorem State.advance_disp (s : State) (n : Word) :
    (s.advance n).disp = s.disp := rfl
@[simp] theorem State.advance_mem (s : State) (n : Word) :
    (s.advance n).mem = s.mem := rfl
@[simp] theorem State.advance_mode (s : State) (n : Word) :
    (s.advance n).mode = s.mode := rfl
@[simp] theorem State.advance_keys (s : State) (n : Word) :
    (s.advance n).keys = s.keys := rfl
@[simp] theorem State.advance_rnd (s : State) (n : Word) :
    (s.advance n).rnd = s.rnd := rfl
@[simp] theorem State.advance_result (s : State) (n : Word) :
    (s.advance n).result = s.result := rfl
@[simp] theorem State.advance_stepCount (s : State) (n : Word) :
    (s.advance n).stepCount = s.stepCount := rfl
@[simp] theorem State.advance_ticksDue (s : State) (n : Word) :
    (s.advance n).ticksDue = s.ticksDue := rfl
@[simp] theorem State.advance_reg (s : State) (n : Word) (k : Reg) :
    (s.advance n).reg k = s.reg k := rfl
@[simp] theorem State.advance_pixel (s : State) (n : Word) (x : Fin 64) (y : Fin 32) :
    (s.advance n).pixel x y = s.pixel x y := rfl
@[simp] theorem State.advance_dataAddr (s : State) (n : Word) :
    (s.advance n).dataAddr = s.dataAddr := rfl

/-! ### `setDt` -/

@[simp] theorem State.setDt_v (s : State) (b : Byte) :
    (s.setDt b).v = s.v := rfl
@[simp] theorem State.setDt_index (s : State) (b : Byte) :
    (s.setDt b).index = s.index := rfl
@[simp] theorem State.setDt_pc (s : State) (b : Byte) :
    (s.setDt b).pc = s.pc := rfl
@[simp] theorem State.setDt_stack (s : State) (b : Byte) :
    (s.setDt b).stack = s.stack := rfl
@[simp] theorem State.setDt_sp (s : State) (b : Byte) :
    (s.setDt b).sp = s.sp := rfl
@[simp] theorem State.setDt_dt (s : State) (b : Byte) :
    (s.setDt b).dt = b := rfl
@[simp] theorem State.setDt_st (s : State) (b : Byte) :
    (s.setDt b).st = s.st := rfl
@[simp] theorem State.setDt_disp (s : State) (b : Byte) :
    (s.setDt b).disp = s.disp := rfl
@[simp] theorem State.setDt_mem (s : State) (b : Byte) :
    (s.setDt b).mem = s.mem := rfl
@[simp] theorem State.setDt_mode (s : State) (b : Byte) :
    (s.setDt b).mode = s.mode := rfl
@[simp] theorem State.setDt_keys (s : State) (b : Byte) :
    (s.setDt b).keys = s.keys := rfl
@[simp] theorem State.setDt_rnd (s : State) (b : Byte) :
    (s.setDt b).rnd = s.rnd := rfl
@[simp] theorem State.setDt_result (s : State) (b : Byte) :
    (s.setDt b).result = s.result := rfl
@[simp] theorem State.setDt_stepCount (s : State) (b : Byte) :
    (s.setDt b).stepCount = s.stepCount := rfl
@[simp] theorem State.setDt_ticksDue (s : State) (b : Byte) :
    (s.setDt b).ticksDue = s.ticksDue := rfl
@[simp] theorem State.setDt_reg (s : State) (b : Byte) (k : Reg) :
    (s.setDt b).reg k = s.reg k := rfl
@[simp] theorem State.setDt_pixel (s : State) (b : Byte) (x : Fin 64) (y : Fin 32) :
    (s.setDt b).pixel x y = s.pixel x y := rfl
@[simp] theorem State.setDt_dataAddr (s : State) (b : Byte) :
    (s.setDt b).dataAddr = s.dataAddr := rfl

/-! ### `setDisp` -/

@[simp] theorem State.setDisp_v (s : State) (d : Display) :
    (s.setDisp d).v = s.v := rfl
@[simp] theorem State.setDisp_index (s : State) (d : Display) :
    (s.setDisp d).index = s.index := rfl
@[simp] theorem State.setDisp_pc (s : State) (d : Display) :
    (s.setDisp d).pc = s.pc := rfl
@[simp] theorem State.setDisp_stack (s : State) (d : Display) :
    (s.setDisp d).stack = s.stack := rfl
@[simp] theorem State.setDisp_sp (s : State) (d : Display) :
    (s.setDisp d).sp = s.sp := rfl
@[simp] theorem State.setDisp_dt (s : State) (d : Display) :
    (s.setDisp d).dt = s.dt := rfl
@[simp] theorem State.setDisp_st (s : State) (d : Display) :
    (s.setDisp d).st = s.st := rfl
@[simp] theorem State.setDisp_disp (s : State) (d : Display) :
    (s.setDisp d).disp = d := rfl
@[simp] theorem State.setDisp_mem (s : State) (d : Display) :
    (s.setDisp d).mem = s.mem := rfl
@[simp] theorem State.setDisp_mode (s : State) (d : Display) :
    (s.setDisp d).mode = s.mode := rfl
@[simp] theorem State.setDisp_keys (s : State) (d : Display) :
    (s.setDisp d).keys = s.keys := rfl
@[simp] theorem State.setDisp_rnd (s : State) (d : Display) :
    (s.setDisp d).rnd = s.rnd := rfl
@[simp] theorem State.setDisp_result (s : State) (d : Display) :
    (s.setDisp d).result = s.result := rfl
@[simp] theorem State.setDisp_stepCount (s : State) (d : Display) :
    (s.setDisp d).stepCount = s.stepCount := rfl
@[simp] theorem State.setDisp_ticksDue (s : State) (d : Display) :
    (s.setDisp d).ticksDue = s.ticksDue := rfl
@[simp] theorem State.setDisp_reg (s : State) (d : Display) (k : Reg) :
    (s.setDisp d).reg k = s.reg k := rfl
@[simp] theorem State.setDisp_dataAddr (s : State) (d : Display) :
    (s.setDisp d).dataAddr = s.dataAddr := rfl

/-! ### `setMem` -/

@[simp] theorem State.setMem_v (s : State) (m : Memory) :
    (s.setMem m).v = s.v := rfl
@[simp] theorem State.setMem_index (s : State) (m : Memory) :
    (s.setMem m).index = s.index := rfl
@[simp] theorem State.setMem_pc (s : State) (m : Memory) :
    (s.setMem m).pc = s.pc := rfl
@[simp] theorem State.setMem_stack (s : State) (m : Memory) :
    (s.setMem m).stack = s.stack := rfl
@[simp] theorem State.setMem_sp (s : State) (m : Memory) :
    (s.setMem m).sp = s.sp := rfl
@[simp] theorem State.setMem_dt (s : State) (m : Memory) :
    (s.setMem m).dt = s.dt := rfl
@[simp] theorem State.setMem_st (s : State) (m : Memory) :
    (s.setMem m).st = s.st := rfl
@[simp] theorem State.setMem_disp (s : State) (m : Memory) :
    (s.setMem m).disp = s.disp := rfl
@[simp] theorem State.setMem_mem (s : State) (m : Memory) :
    (s.setMem m).mem = m := rfl
@[simp] theorem State.setMem_mode (s : State) (m : Memory) :
    (s.setMem m).mode = s.mode := rfl
@[simp] theorem State.setMem_keys (s : State) (m : Memory) :
    (s.setMem m).keys = s.keys := rfl
@[simp] theorem State.setMem_rnd (s : State) (m : Memory) :
    (s.setMem m).rnd = s.rnd := rfl
@[simp] theorem State.setMem_result (s : State) (m : Memory) :
    (s.setMem m).result = s.result := rfl
@[simp] theorem State.setMem_stepCount (s : State) (m : Memory) :
    (s.setMem m).stepCount = s.stepCount := rfl
@[simp] theorem State.setMem_ticksDue (s : State) (m : Memory) :
    (s.setMem m).ticksDue = s.ticksDue := rfl
@[simp] theorem State.setMem_reg (s : State) (m : Memory) (k : Reg) :
    (s.setMem m).reg k = s.reg k := rfl
@[simp] theorem State.setMem_pixel (s : State) (m : Memory) (x : Fin 64) (y : Fin 32) :
    (s.setMem m).pixel x y = s.pixel x y := rfl
@[simp] theorem State.setMem_dataAddr (s : State) (m : Memory) :
    (s.setMem m).dataAddr = s.dataAddr := rfl

/-! ### `push` -/

@[simp] theorem State.push_v (s : State) (w : Word) (h : s.sp.val < 16) :
    (s.push w h).v = s.v := rfl
@[simp] theorem State.push_index (s : State) (w : Word) (h : s.sp.val < 16) :
    (s.push w h).index = s.index := rfl
@[simp] theorem State.push_pc (s : State) (w : Word) (h : s.sp.val < 16) :
    (s.push w h).pc = s.pc := rfl
@[simp] theorem State.push_stack (s : State) (w : Word) (h : s.sp.val < 16) :
    (s.push w h).stack = s.stack.set s.sp.val w := rfl
@[simp] theorem State.push_sp (s : State) (w : Word) (h : s.sp.val < 16) :
    (s.push w h).sp = ⟨s.sp.val + 1, by omega⟩ := rfl
@[simp] theorem State.push_dt (s : State) (w : Word) (h : s.sp.val < 16) :
    (s.push w h).dt = s.dt := rfl
@[simp] theorem State.push_st (s : State) (w : Word) (h : s.sp.val < 16) :
    (s.push w h).st = s.st := rfl
@[simp] theorem State.push_disp (s : State) (w : Word) (h : s.sp.val < 16) :
    (s.push w h).disp = s.disp := rfl
@[simp] theorem State.push_mem (s : State) (w : Word) (h : s.sp.val < 16) :
    (s.push w h).mem = s.mem := rfl
@[simp] theorem State.push_mode (s : State) (w : Word) (h : s.sp.val < 16) :
    (s.push w h).mode = s.mode := rfl
@[simp] theorem State.push_keys (s : State) (w : Word) (h : s.sp.val < 16) :
    (s.push w h).keys = s.keys := rfl
@[simp] theorem State.push_rnd (s : State) (w : Word) (h : s.sp.val < 16) :
    (s.push w h).rnd = s.rnd := rfl
@[simp] theorem State.push_result (s : State) (w : Word) (h : s.sp.val < 16) :
    (s.push w h).result = s.result := rfl
@[simp] theorem State.push_stepCount (s : State) (w : Word) (h : s.sp.val < 16) :
    (s.push w h).stepCount = s.stepCount := rfl
@[simp] theorem State.push_ticksDue (s : State) (w : Word) (h : s.sp.val < 16) :
    (s.push w h).ticksDue = s.ticksDue := rfl
@[simp] theorem State.push_reg (s : State) (w : Word) (h : s.sp.val < 16) (k : Reg) :
    (s.push w h).reg k = s.reg k := rfl
@[simp] theorem State.push_pixel (s : State) (w : Word) (h : s.sp.val < 16) (x : Fin 64) (y : Fin 32) :
    (s.push w h).pixel x y = s.pixel x y := rfl
@[simp] theorem State.push_dataAddr (s : State) (w : Word) (h : s.sp.val < 16) :
    (s.push w h).dataAddr = s.dataAddr := rfl

/-! ### `pop` -/

@[simp] theorem State.pop_v (s : State) :
    s.pop.v = s.v := rfl
@[simp] theorem State.pop_index (s : State) :
    s.pop.index = s.index := rfl
@[simp] theorem State.pop_pc (s : State) :
    s.pop.pc = s.pc := rfl
@[simp] theorem State.pop_stack (s : State) :
    s.pop.stack = s.stack := rfl
@[simp] theorem State.pop_sp (s : State) :
    s.pop.sp = ⟨s.sp.val - 1, by have := s.sp.isLt; omega⟩ := rfl
@[simp] theorem State.pop_dt (s : State) :
    s.pop.dt = s.dt := rfl
@[simp] theorem State.pop_st (s : State) :
    s.pop.st = s.st := rfl
@[simp] theorem State.pop_disp (s : State) :
    s.pop.disp = s.disp := rfl
@[simp] theorem State.pop_mem (s : State) :
    s.pop.mem = s.mem := rfl
@[simp] theorem State.pop_mode (s : State) :
    s.pop.mode = s.mode := rfl
@[simp] theorem State.pop_keys (s : State) :
    s.pop.keys = s.keys := rfl
@[simp] theorem State.pop_rnd (s : State) :
    s.pop.rnd = s.rnd := rfl
@[simp] theorem State.pop_result (s : State) :
    s.pop.result = s.result := rfl
@[simp] theorem State.pop_stepCount (s : State) :
    s.pop.stepCount = s.stepCount := rfl
@[simp] theorem State.pop_ticksDue (s : State) :
    s.pop.ticksDue = s.ticksDue := rfl
@[simp] theorem State.pop_reg (s : State) (k : Reg) :
    s.pop.reg k = s.reg k := rfl
@[simp] theorem State.pop_pixel (s : State) (x : Fin 64) (y : Fin 32) :
    s.pop.pixel x y = s.pixel x y := rfl
@[simp] theorem State.pop_dataAddr (s : State) :
    s.pop.dataAddr = s.dataAddr := rfl

/-! ### `setResult` -/

@[simp] theorem State.setResult_v (s : State) (r : StepResult) :
    (s.setResult r).v = s.v := rfl
@[simp] theorem State.setResult_index (s : State) (r : StepResult) :
    (s.setResult r).index = s.index := rfl
@[simp] theorem State.setResult_pc (s : State) (r : StepResult) :
    (s.setResult r).pc = s.pc := rfl
@[simp] theorem State.setResult_stack (s : State) (r : StepResult) :
    (s.setResult r).stack = s.stack := rfl
@[simp] theorem State.setResult_sp (s : State) (r : StepResult) :
    (s.setResult r).sp = s.sp := rfl
@[simp] theorem State.setResult_dt (s : State) (r : StepResult) :
    (s.setResult r).dt = s.dt := rfl
@[simp] theorem State.setResult_st (s : State) (r : StepResult) :
    (s.setResult r).st = s.st := rfl
@[simp] theorem State.setResult_disp (s : State) (r : StepResult) :
    (s.setResult r).disp = s.disp := rfl
@[simp] theorem State.setResult_mem (s : State) (r : StepResult) :
    (s.setResult r).mem = s.mem := rfl
@[simp] theorem State.setResult_mode (s : State) (r : StepResult) :
    (s.setResult r).mode = s.mode := rfl
@[simp] theorem State.setResult_keys (s : State) (r : StepResult) :
    (s.setResult r).keys = s.keys := rfl
@[simp] theorem State.setResult_rnd (s : State) (r : StepResult) :
    (s.setResult r).rnd = s.rnd := rfl
@[simp] theorem State.setResult_result (s : State) (r : StepResult) :
    (s.setResult r).result = some r := rfl
@[simp] theorem State.setResult_stepCount (s : State) (r : StepResult) :
    (s.setResult r).stepCount = s.stepCount := rfl
@[simp] theorem State.setResult_ticksDue (s : State) (r : StepResult) :
    (s.setResult r).ticksDue = s.ticksDue := rfl
@[simp] theorem State.setResult_reg (s : State) (r : StepResult) (k : Reg) :
    (s.setResult r).reg k = s.reg k := rfl
@[simp] theorem State.setResult_pixel (s : State) (r : StepResult) (x : Fin 64) (y : Fin 32) :
    (s.setResult r).pixel x y = s.pixel x y := rfl
@[simp] theorem State.setResult_dataAddr (s : State) (r : StepResult) :
    (s.setResult r).dataAddr = s.dataAddr := rfl

/-! ### `wait` -/

@[simp] theorem State.wait_v (s : State) :
    s.wait.v = s.v := rfl
@[simp] theorem State.wait_index (s : State) :
    s.wait.index = s.index := rfl
@[simp] theorem State.wait_pc (s : State) :
    s.wait.pc = s.pc := rfl
@[simp] theorem State.wait_stack (s : State) :
    s.wait.stack = s.stack := rfl
@[simp] theorem State.wait_sp (s : State) :
    s.wait.sp = s.sp := rfl
@[simp] theorem State.wait_dt (s : State) :
    s.wait.dt = s.dt := rfl
@[simp] theorem State.wait_st (s : State) :
    s.wait.st = s.st := rfl
@[simp] theorem State.wait_disp (s : State) :
    s.wait.disp = s.disp := rfl
@[simp] theorem State.wait_mem (s : State) :
    s.wait.mem = s.mem := rfl
@[simp] theorem State.wait_mode (s : State) :
    s.wait.mode = s.mode := rfl
@[simp] theorem State.wait_keys (s : State) :
    s.wait.keys = s.keys := rfl
@[simp] theorem State.wait_rnd (s : State) :
    s.wait.rnd = s.rnd := rfl
@[simp] theorem State.wait_result (s : State) :
    s.wait.result = some .wait := rfl
@[simp] theorem State.wait_stepCount (s : State) :
    s.wait.stepCount = s.stepCount := rfl
@[simp] theorem State.wait_ticksDue (s : State) :
    s.wait.ticksDue = s.ticksDue := rfl
@[simp] theorem State.wait_reg (s : State) (k : Reg) :
    s.wait.reg k = s.reg k := rfl
@[simp] theorem State.wait_pixel (s : State) (x : Fin 64) (y : Fin 32) :
    s.wait.pixel x y = s.pixel x y := rfl
@[simp] theorem State.wait_dataAddr (s : State) :
    s.wait.dataAddr = s.dataAddr := rfl

/-! ### `faultWith` -/

@[simp] theorem State.faultWith_v (s : State) (e : FatalError) :
    (s.faultWith e).v = s.v := rfl
@[simp] theorem State.faultWith_index (s : State) (e : FatalError) :
    (s.faultWith e).index = s.index := rfl
@[simp] theorem State.faultWith_pc (s : State) (e : FatalError) :
    (s.faultWith e).pc = s.pc := rfl
@[simp] theorem State.faultWith_stack (s : State) (e : FatalError) :
    (s.faultWith e).stack = s.stack := rfl
@[simp] theorem State.faultWith_sp (s : State) (e : FatalError) :
    (s.faultWith e).sp = s.sp := rfl
@[simp] theorem State.faultWith_dt (s : State) (e : FatalError) :
    (s.faultWith e).dt = s.dt := rfl
@[simp] theorem State.faultWith_st (s : State) (e : FatalError) :
    (s.faultWith e).st = s.st := rfl
@[simp] theorem State.faultWith_disp (s : State) (e : FatalError) :
    (s.faultWith e).disp = s.disp := rfl
@[simp] theorem State.faultWith_mem (s : State) (e : FatalError) :
    (s.faultWith e).mem = s.mem := rfl
@[simp] theorem State.faultWith_mode (s : State) (e : FatalError) :
    (s.faultWith e).mode = .faulted e := rfl
@[simp] theorem State.faultWith_keys (s : State) (e : FatalError) :
    (s.faultWith e).keys = s.keys := rfl
@[simp] theorem State.faultWith_rnd (s : State) (e : FatalError) :
    (s.faultWith e).rnd = s.rnd := rfl
@[simp] theorem State.faultWith_result (s : State) (e : FatalError) :
    (s.faultWith e).result = some (.fatal e) := rfl
@[simp] theorem State.faultWith_stepCount (s : State) (e : FatalError) :
    (s.faultWith e).stepCount = s.stepCount := rfl
@[simp] theorem State.faultWith_ticksDue (s : State) (e : FatalError) :
    (s.faultWith e).ticksDue = s.ticksDue := rfl
@[simp] theorem State.faultWith_reg (s : State) (e : FatalError) (k : Reg) :
    (s.faultWith e).reg k = s.reg k := rfl
@[simp] theorem State.faultWith_pixel (s : State) (e : FatalError) (x : Fin 64) (y : Fin 32) :
    (s.faultWith e).pixel x y = s.pixel x y := rfl
@[simp] theorem State.faultWith_dataAddr (s : State) (e : FatalError) :
    (s.faultWith e).dataAddr = s.dataAddr := rfl

/-! ### `skipIf` -/

@[simp] theorem State.skipIf_v (s : State) (c : Bool) :
    (s.skipIf c).v = s.v := rfl
@[simp] theorem State.skipIf_index (s : State) (c : Bool) :
    (s.skipIf c).index = s.index := rfl
@[simp] theorem State.skipIf_pc (s : State) (c : Bool) :
    (s.skipIf c).pc = s.pc + if c then 4 else 2 := rfl
@[simp] theorem State.skipIf_stack (s : State) (c : Bool) :
    (s.skipIf c).stack = s.stack := rfl
@[simp] theorem State.skipIf_sp (s : State) (c : Bool) :
    (s.skipIf c).sp = s.sp := rfl
@[simp] theorem State.skipIf_dt (s : State) (c : Bool) :
    (s.skipIf c).dt = s.dt := rfl
@[simp] theorem State.skipIf_st (s : State) (c : Bool) :
    (s.skipIf c).st = s.st := rfl
@[simp] theorem State.skipIf_disp (s : State) (c : Bool) :
    (s.skipIf c).disp = s.disp := rfl
@[simp] theorem State.skipIf_mem (s : State) (c : Bool) :
    (s.skipIf c).mem = s.mem := rfl
@[simp] theorem State.skipIf_mode (s : State) (c : Bool) :
    (s.skipIf c).mode = s.mode := rfl
@[simp] theorem State.skipIf_keys (s : State) (c : Bool) :
    (s.skipIf c).keys = s.keys := rfl
@[simp] theorem State.skipIf_rnd (s : State) (c : Bool) :
    (s.skipIf c).rnd = s.rnd := rfl
@[simp] theorem State.skipIf_result (s : State) (c : Bool) :
    (s.skipIf c).result = s.result := rfl
@[simp] theorem State.skipIf_stepCount (s : State) (c : Bool) :
    (s.skipIf c).stepCount = s.stepCount := rfl
@[simp] theorem State.skipIf_ticksDue (s : State) (c : Bool) :
    (s.skipIf c).ticksDue = s.ticksDue := rfl
@[simp] theorem State.skipIf_reg (s : State) (c : Bool) (k : Reg) :
    (s.skipIf c).reg k = s.reg k := rfl
@[simp] theorem State.skipIf_pixel (s : State) (c : Bool) (x : Fin 64) (y : Fin 32) :
    (s.skipIf c).pixel x y = s.pixel x y := rfl
@[simp] theorem State.skipIf_dataAddr (s : State) (c : Bool) :
    (s.skipIf c).dataAddr = s.dataAddr := rfl

/-! ### `tick` -/

@[simp] theorem State.tick_v (s : State) :
    s.tick.v = s.v := rfl
@[simp] theorem State.tick_index (s : State) :
    s.tick.index = s.index := rfl
@[simp] theorem State.tick_pc (s : State) :
    s.tick.pc = s.pc := rfl
@[simp] theorem State.tick_stack (s : State) :
    s.tick.stack = s.stack := rfl
@[simp] theorem State.tick_sp (s : State) :
    s.tick.sp = s.sp := rfl
@[simp] theorem State.tick_dt (s : State) :
    s.tick.dt = decrement s.dt := rfl
@[simp] theorem State.tick_st (s : State) :
    s.tick.st = decrement s.st := rfl
@[simp] theorem State.tick_disp (s : State) :
    s.tick.disp = s.disp := rfl
@[simp] theorem State.tick_mem (s : State) :
    s.tick.mem = s.mem := rfl
@[simp] theorem State.tick_mode (s : State) :
    s.tick.mode = s.mode := rfl
@[simp] theorem State.tick_keys (s : State) :
    s.tick.keys = s.keys := rfl
@[simp] theorem State.tick_rnd (s : State) :
    s.tick.rnd = s.rnd := rfl
@[simp] theorem State.tick_result (s : State) :
    s.tick.result = s.result := rfl
@[simp] theorem State.tick_stepCount (s : State) :
    s.tick.stepCount = s.stepCount := rfl
@[simp] theorem State.tick_ticksDue (s : State) :
    s.tick.ticksDue = s.ticksDue := rfl
@[simp] theorem State.tick_reg (s : State) (k : Reg) :
    s.tick.reg k = s.reg k := rfl
@[simp] theorem State.tick_pixel (s : State) (x : Fin 64) (y : Fin 32) :
    s.tick.pixel x y = s.pixel x y := rfl
@[simp] theorem State.tick_dataAddr (s : State) :
    s.tick.dataAddr = s.dataAddr := rfl

/-! ### `ticks` -/

@[simp] theorem State.ticks_v (n : Nat) (s : State) :
    (s.ticks n).v = s.v := rfl
@[simp] theorem State.ticks_index (n : Nat) (s : State) :
    (s.ticks n).index = s.index := rfl
@[simp] theorem State.ticks_pc (n : Nat) (s : State) :
    (s.ticks n).pc = s.pc := rfl
@[simp] theorem State.ticks_stack (n : Nat) (s : State) :
    (s.ticks n).stack = s.stack := rfl
@[simp] theorem State.ticks_sp (n : Nat) (s : State) :
    (s.ticks n).sp = s.sp := rfl
@[simp] theorem State.ticks_dt (n : Nat) (s : State) :
    (s.ticks n).dt = decay n s.dt := rfl
@[simp] theorem State.ticks_st (n : Nat) (s : State) :
    (s.ticks n).st = decay n s.st := rfl
@[simp] theorem State.ticks_disp (n : Nat) (s : State) :
    (s.ticks n).disp = s.disp := rfl
@[simp] theorem State.ticks_mem (n : Nat) (s : State) :
    (s.ticks n).mem = s.mem := rfl
@[simp] theorem State.ticks_mode (n : Nat) (s : State) :
    (s.ticks n).mode = s.mode := rfl
@[simp] theorem State.ticks_keys (n : Nat) (s : State) :
    (s.ticks n).keys = s.keys := rfl
@[simp] theorem State.ticks_rnd (n : Nat) (s : State) :
    (s.ticks n).rnd = s.rnd := rfl
@[simp] theorem State.ticks_result (n : Nat) (s : State) :
    (s.ticks n).result = s.result := rfl
@[simp] theorem State.ticks_stepCount (n : Nat) (s : State) :
    (s.ticks n).stepCount = s.stepCount := rfl
@[simp] theorem State.ticks_ticksDue (n : Nat) (s : State) :
    (s.ticks n).ticksDue = s.ticksDue := rfl
@[simp] theorem State.ticks_reg (n : Nat) (s : State) (k : Reg) :
    (s.ticks n).reg k = s.reg k := rfl
@[simp] theorem State.ticks_pixel (n : Nat) (s : State) (x : Fin 64) (y : Fin 32) :
    (s.ticks n).pixel x y = s.pixel x y := rfl
@[simp] theorem State.ticks_dataAddr (n : Nat) (s : State) :
    (s.ticks n).dataAddr = s.dataAddr := rfl

/-! ### `timerTurn` -/

@[simp] theorem State.timerTurn_v (n : Nat) (s : State) :
    (s.timerTurn n).v = s.v := rfl
@[simp] theorem State.timerTurn_index (n : Nat) (s : State) :
    (s.timerTurn n).index = s.index := rfl
@[simp] theorem State.timerTurn_pc (n : Nat) (s : State) :
    (s.timerTurn n).pc = s.pc := rfl
@[simp] theorem State.timerTurn_stack (n : Nat) (s : State) :
    (s.timerTurn n).stack = s.stack := rfl
@[simp] theorem State.timerTurn_sp (n : Nat) (s : State) :
    (s.timerTurn n).sp = s.sp := rfl
@[simp] theorem State.timerTurn_dt (n : Nat) (s : State) :
    (s.timerTurn n).dt = decrement s.dt := rfl
@[simp] theorem State.timerTurn_st (n : Nat) (s : State) :
    (s.timerTurn n).st = decrement s.st := rfl
@[simp] theorem State.timerTurn_disp (n : Nat) (s : State) :
    (s.timerTurn n).disp = s.disp := rfl
@[simp] theorem State.timerTurn_mem (n : Nat) (s : State) :
    (s.timerTurn n).mem = s.mem := rfl
@[simp] theorem State.timerTurn_mode (n : Nat) (s : State) :
    (s.timerTurn n).mode = s.mode := rfl
@[simp] theorem State.timerTurn_keys (n : Nat) (s : State) :
    (s.timerTurn n).keys = s.keys := rfl
@[simp] theorem State.timerTurn_rnd (n : Nat) (s : State) :
    (s.timerTurn n).rnd = s.rnd := rfl
@[simp] theorem State.timerTurn_result (n : Nat) (s : State) :
    (s.timerTurn n).result = s.result := rfl
@[simp] theorem State.timerTurn_stepCount (n : Nat) (s : State) :
    (s.timerTurn n).stepCount = s.stepCount := rfl
@[simp] theorem State.timerTurn_ticksDue (n : Nat) (s : State) :
    (s.timerTurn n).ticksDue = n := rfl
@[simp] theorem State.timerTurn_reg (n : Nat) (s : State) (k : Reg) :
    (s.timerTurn n).reg k = s.reg k := rfl
@[simp] theorem State.timerTurn_pixel (n : Nat) (s : State) (x : Fin 64) (y : Fin 32) :
    (s.timerTurn n).pixel x y = s.pixel x y := rfl
@[simp] theorem State.timerTurn_dataAddr (n : Nat) (s : State) :
    (s.timerTurn n).dataAddr = s.dataAddr := rfl

/-! ### `admitHost` -/

@[simp] theorem State.admitHost_v (s : State) :
    s.admitHost.v = s.v := rfl
@[simp] theorem State.admitHost_index (s : State) :
    s.admitHost.index = s.index := rfl
@[simp] theorem State.admitHost_pc (s : State) :
    s.admitHost.pc = s.pc := rfl
@[simp] theorem State.admitHost_stack (s : State) :
    s.admitHost.stack = s.stack := rfl
@[simp] theorem State.admitHost_sp (s : State) :
    s.admitHost.sp = s.sp := rfl
@[simp] theorem State.admitHost_dt (s : State) :
    s.admitHost.dt = s.dt := rfl
@[simp] theorem State.admitHost_st (s : State) :
    s.admitHost.st = s.st := rfl
@[simp] theorem State.admitHost_disp (s : State) :
    s.admitHost.disp = s.disp := rfl
@[simp] theorem State.admitHost_mem (s : State) :
    s.admitHost.mem = s.mem := rfl
@[simp] theorem State.admitHost_mode (s : State) :
    s.admitHost.mode = s.mode := rfl
@[simp] theorem State.admitHost_keys (s : State) :
    s.admitHost.keys = Config.keyLevels s.stepCount := rfl
@[simp] theorem State.admitHost_rnd (s : State) :
    s.admitHost.rnd = Config.randomByte s.stepCount := rfl
@[simp] theorem State.admitHost_result (s : State) :
    s.admitHost.result = s.result := rfl
@[simp] theorem State.admitHost_stepCount (s : State) :
    s.admitHost.stepCount = s.stepCount + 1 := rfl
@[simp] theorem State.admitHost_ticksDue (s : State) :
    s.admitHost.ticksDue = Config.ticksAfter s.stepCount := rfl
@[simp] theorem State.admitHost_reg (s : State) (k : Reg) :
    s.admitHost.reg k = s.reg k := rfl
@[simp] theorem State.admitHost_pixel (s : State) (x : Fin 64) (y : Fin 32) :
    s.admitHost.pixel x y = s.pixel x y := rfl
@[simp] theorem State.admitHost_dataAddr (s : State) :
    s.admitHost.dataAddr = s.dataAddr := rfl

/-! ### The registers after a write -/

theorem State.reg_setReg (s : State) (r k : Reg) (b : Byte) :
    (s.setReg r b).reg k = if k = r then b else s.reg k := by
  have h : (r : Nat) = (k : Nat) ↔ k = r := by rw [eq_comm, Fin.val_inj]
  simp [State.reg, State.setReg, Vector.getElem_set, h]

@[simp] theorem State.reg_setReg_same (s : State) (r : Reg) (b : Byte) : (s.setReg r b).reg r = b := by
  simp [State.reg_setReg]

theorem State.reg_setReg_ne (s : State) {r k : Reg} (b : Byte) (h : k ≠ r) :
    (s.setReg r b).reg k = s.reg k := by
  simp [State.reg_setReg, h]

@[simp] theorem State.setRegs_reg (s : State) (w : Vector Byte 16) (k : Reg) : (s.setRegs w).reg k = w[k] := rfl

@[simp] theorem State.setDisp_pixel (s : State) (d : Display) (x : Fin 64) (y : Fin 32) :
    (s.setDisp d).pixel x y = Display.pixel d x y := rfl

/-- The registers after a load of `V0..=Vx` (R185). -/
theorem State.reg_setRegs_regsFrom (s : State) (x k : Reg) (a : Nat) :
    (s.setRegs (s.regsFrom x a)).reg k = if k ≤ x then s.mem.read (a + k.val) else s.reg k := by
  simp [State.regsFrom]

/-! ### The two ends of an instruction -/

@[simp] theorem State.complete_eq (s : State) : s.complete = .next (s.setResult .ok) := rfl

@[simp] theorem State.raise_eq (s : State) (e : FatalError) : s.raise e = .next (s.faultWith e) := rfl

@[simp] theorem State.raiseBounds_eq (s : State) (i : Instr) (a : Nat) :
    s.raiseBounds i a = .next (s.faultWith (.memoryBoundsError s.pc (some (encode i)) a)) := rfl

@[simp] theorem State.raiseStack_eq (s : State) (i : Instr) (k : StackErrorKind) :
    s.raiseStack i k = .next (s.faultWith (.stackError s.pc (encode i) k)) := rfl

end Sys2Proof.Machine
end

