-- ==== Sys2Proof/Laws/DisplayOps.lean ====
section
/-! SUPPORT. What the display surface's operations do to every cell, and where a sprite's set bits fall. -/

namespace Sys2Proof.Machine

@[simp] theorem Display.pixel_clear (x : Fin 64) (y : Fin 32) : Display.pixel Display.clear x y = false := by
  simp [Display.pixel, Display.clear]

/-- `draw_pixel` toggles its own cell and no other (R120). -/
theorem Display.pixel_toggle (d : Display) (x px : Fin 64) (y py : Fin 32) :
    Display.pixel (Display.toggle d x y) px py = (Display.pixel d px py ^^ decide ((px, py) = (x, y))) := by
  have hx : (x : Nat) = (px : Nat) ↔ px = x := by rw [eq_comm, Fin.val_inj]
  have hy : (y : Nat) = (py : Nat) ↔ py = y := by rw [eq_comm, Fin.val_inj]
  by_cases h : py = y
  · subst h
    by_cases h' : px = x
    · subst h'
      simp [Display.pixel, Display.toggle]
    · simp [Display.pixel, Display.toggle, hx, h']
  · simp [Display.pixel, Display.toggle, hy, h]

/-- Drawing distinct positions toggles exactly those cells. -/
theorem Display.pixel_drawPixels (d : Display) (ps : List (Fin 64 × Fin 32)) (h : ps.Nodup) (x : Fin 64) (y : Fin 32) :
    Display.pixel (Display.drawPixels d ps).1 x y = (Display.pixel d x y ^^ decide ((x, y) ∈ ps)) := by
  induction ps generalizing d with
  | nil => simp [Display.drawPixels]
  | cons p ps ih =>
    rw [List.nodup_cons] at h
    show Display.pixel (Display.drawPixels (Display.toggle d p.1 p.2) ps).1 x y = _
    rw [ih _ h.2, Display.pixel_toggle]
    by_cases hp : (x, y) = p
    · subst hp
      simp [h.1]
    · simp [List.mem_cons, hp]

/-- Drawing distinct positions collides exactly when one of them was on (R126). -/
theorem Display.hit_drawPixels (d : Display) (ps : List (Fin 64 × Fin 32)) (h : ps.Nodup) :
    (Display.drawPixels d ps).2 = true ↔ ∃ p ∈ ps, Display.pixel d p.1 p.2 = true := by
  induction ps generalizing d with
  | nil => simp [Display.drawPixels]
  | cons p ps ih =>
    rw [List.nodup_cons] at h
    show (Display.pixel d p.1 p.2 || (Display.drawPixels (Display.toggle d p.1 p.2) ps).2) = true ↔ _
    rw [Bool.or_eq_true, ih _ h.2]
    have other : ∀ q ∈ ps, Display.pixel (Display.toggle d p.1 p.2) q.1 q.2 = Display.pixel d q.1 q.2 := by
      intro q hq
      have hne : ¬ (q.1, q.2) = (p.1, p.2) := fun e => h.1 (by rwa [show q = p from e] at hq)
      rw [Display.pixel_toggle, decide_eq_false hne, Bool.xor_false]
    simp only [List.mem_cons, exists_eq_or_imp]
    refine or_congr_right (exists_congr fun q => and_congr_right fun hq => ?_)
    rw [other q hq]

/-- Where a sprite row's set bits fall (R124, R125). -/
theorem mem_rowPixels (vx y : Nat) (b : Byte) (p : Fin 64 × Fin 32) :
    p ∈ rowPixels vx y b ↔
      ∃ c, c < 8 ∧ b.getLsbD (7 - c) = true ∧ p = (Fin.ofNat 64 (vx + c), Fin.ofNat 32 y) := by
  simp only [rowPixels, List.mem_map, List.mem_filter, List.mem_range, and_assoc]
  exact exists_congr fun c => and_congr_right fun _ => and_congr_right fun _ => eq_comm

/-- Where a sprite's set bits fall (R123, R125). -/
theorem mem_spritePixels (vx y : Nat) (bs : List Byte) (p : Fin 64 × Fin 32) :
    p ∈ spritePixels vx y bs ↔
      ∃ r, ∃ h : r < bs.length, ∃ c, c < 8 ∧ bs[r].getLsbD (7 - c) = true ∧
        p = (Fin.ofNat 64 (vx + c), Fin.ofNat 32 (y + r)) := by
  induction bs generalizing y with
  | nil => simp [spritePixels]
  | cons b bs ih =>
    rw [spritePixels, List.mem_append, mem_rowPixels, ih]
    constructor
    · rintro (⟨c, hc⟩ | ⟨r, hr, c, hc8, hb, hp⟩)
      · exact ⟨0, by simp, c, hc⟩
      · exact ⟨r + 1, by simpa using hr, c, hc8, hb, by rw [hp, Nat.add_right_comm, Nat.add_assoc]⟩
    · rintro ⟨r, hr, c, hc8, hb, hp⟩
      cases r with
      | zero => exact .inl ⟨c, hc8, hb, hp⟩
      | succ r =>
        exact .inr ⟨r, by simpa using hr, c, hc8, hb, by rw [hp, Nat.add_right_comm, Nat.add_assoc]⟩

theorem nodup_rowPixels (vx y : Nat) (b : Byte) : (rowPixels vx y b).Nodup := by
  refine List.Nodup.map_on ?_ (List.nodup_range.filter _)
  intro c hc d hd h
  simp only [List.mem_filter, List.mem_range] at hc hd
  have h1 : (vx + c) % 64 = (vx + d) % 64 := congrArg (fun p : Fin 64 × Fin 32 => p.1.val) h
  omega

/-- A sprite of at most 32 rows never touches a cell twice (R129). -/
theorem nodup_spritePixels (vx y : Nat) (bs : List Byte) (h : bs.length ≤ 32) : (spritePixels vx y bs).Nodup := by
  induction bs generalizing y with
  | nil => exact .nil
  | cons b bs ih =>
    rw [List.length_cons] at h
    refine List.nodup_append.mpr ⟨nodup_rowPixels vx y b, ih (y + 1) (by omega), fun p hp q hq => ?_⟩
    obtain ⟨c, -, -, rfl⟩ := (mem_rowPixels vx y b p).mp hp
    obtain ⟨r, hr, d, -, -, rfl⟩ := (mem_spritePixels vx (y + 1) bs q).mp hq
    intro e
    have h2 : y % 32 = (y + 1 + r) % 32 := congrArg (fun p : Fin 64 × Fin 32 => p.2.val) e
    omega

end Sys2Proof.Machine
end

