-- ==== Sys2Proof/Laws/Environment.lean ====
section
/-! SUPPORT. What a tick and a number of ticks do to a timer's value. -/

namespace Sys2Proof.Machine

theorem narrow8_toNat_of_lt {n : Nat} (h : n < 256) : (narrow8 n).toNat = n := by
  rw [narrow8, BitVec.toNat_ofNat]
  omega

/-- A tick takes one off a timer, and never below zero (R233). -/
theorem decrement_toNat (t : Byte) : (decrement t).toNat = t.toNat - 1 := by
  have := t.isLt
  unfold decrement
  split
  · exact narrow8_toNat_of_lt (by omega)
  · omega

/-- `n` ticks take `n` off a timer, and never below zero. -/
theorem decay_toNat (n : Nat) (t : Byte) : (decay n t).toNat = t.toNat - n :=
  narrow8_toNat_of_lt (by have := t.isLt; omega)

/-- A timer at zero stays at zero. -/
@[simp] theorem decay_zero (n : Nat) : decay n 0#8 = 0#8 := by
  apply BitVec.eq_of_toNat_eq
  rw [decay_toNat]
  simp

end Sys2Proof.Machine
end

