-- ==== Sys2Proof/Laws/Ops.lean ====
section
/-! SUPPORT. What each shared operation can do, said once: the memory laws and the canonical form, the bounds check,
fetching, a store through `I`, a key query, a decode at `pc`. -/

namespace Sys2Proof.Machine

/-! ## One cell -/

@[simp] theorem Memory.read_nil (a : Nat) : Memory.read [] a = Memory.unlisted a := rfl

theorem Memory.read_cons_cell (b a : Nat) (w : Byte) (m : Memory) :
    Memory.read ((b, w) :: m) a = if a = b then w else Memory.read m a := rfl

/-- A listed-nowhere address reads as its reset content. -/
theorem Memory.read_of_not_mem (m : Memory) (a : Nat) (h : ∀ c ∈ m, c.1 ≠ a) : Memory.read m a = Memory.unlisted a := by
  induction m with
  | nil => rfl
  | cons c m ih =>
    obtain ⟨b, w⟩ := c
    have hb : a ≠ b := fun e => h (b, w) (by simp) e.symm
    rw [Memory.read_cons_cell, if_neg hb]
    exact ih fun c hc => h c (by simp [hc])

theorem Memory.read_cons_ne (m : Memory) (v : Byte) {a k : Nat} (h : k ≠ a) :
    Memory.read (Memory.cons a v m) k = Memory.read m k := by
  unfold Memory.cons
  split
  · rfl
  · rw [Memory.read_cons_cell, if_neg h]

theorem Memory.read_cons_same (m : Memory) (v : Byte) (a : Nat) (h : ∀ c ∈ m, a < c.1) :
    Memory.read (Memory.cons a v m) a = v := by
  unfold Memory.cons
  split
  · next hv => rw [Memory.read_of_not_mem m a fun c hc => by have := h c hc; omega, hv]
  · rw [Memory.read_cons_cell, if_pos rfl]

/-- A write leaves every other address alone. -/
theorem Memory.read_write_ne (m : Memory) (v : Byte) {a k : Nat} (h : k ≠ a) :
    Memory.read (Memory.write m a v) k = Memory.read m k := by
  induction m with
  | nil => exact Memory.read_cons_ne [] v h
  | cons c m ih =>
    obtain ⟨b, w⟩ := c
    unfold Memory.write
    split
    · exact Memory.read_cons_ne _ v h
    · split
      · next hab => rw [Memory.read_cons_ne m v h, Memory.read_cons_cell, if_neg (hab ▸ h)]
      · rw [Memory.read_cons_cell, Memory.read_cons_cell, ih]

/-- A read of the address written, in canonical form, gives the value written. -/
theorem Memory.read_write_same (m : Memory) (v : Byte) (a : Nat) (h : m.wf) :
    Memory.read (Memory.write m a v) a = v := by
  induction m with
  | nil => exact Memory.read_cons_same [] v a (by simp)
  | cons c m ih =>
    obtain ⟨b, w⟩ := c
    obtain ⟨hs, hc⟩ := h
    rw [List.pairwise_cons] at hs
    unfold Memory.write
    split
    · next hab =>
      refine Memory.read_cons_same _ v a fun c hmem => ?_
      rcases List.mem_cons.mp hmem with rfl | hm
      · exact hab
      · exact Nat.lt_trans hab (hs.1 c hm)
    · split
      · next hab => exact Memory.read_cons_same m v a fun c hm => hab ▸ hs.1 c hm
      · next hab => rw [Memory.read_cons_cell, if_neg hab, ih ⟨hs.2, fun c hm => hc c (by simp [hm])⟩]

/-! ## The canonical form -/

theorem Memory.mem_cons_cell {m : Memory} {a : Nat} {v : Byte} {c : Host.Cell} (h : c ∈ Memory.cons a v m) :
    c = (a, v) ∧ v ≠ Memory.unlisted a ∨ c ∈ m := by
  unfold Memory.cons at h
  split at h
  · exact .inr h
  · next hv =>
    rcases List.mem_cons.mp h with rfl | hm
    · exact .inl ⟨rfl, hv⟩
    · exact .inr hm

/-- The cells of a memory after a write are the written one and cells that were there. -/
theorem Memory.mem_write {m : Memory} {a : Nat} {v : Byte} {c : Host.Cell} (h : c ∈ Memory.write m a v) :
    c = (a, v) ∧ v ≠ Memory.unlisted a ∨ c ∈ m := by
  induction m with
  | nil => exact Memory.mem_cons_cell h
  | cons d m ih =>
    obtain ⟨b, w⟩ := d
    unfold Memory.write at h
    split at h
    · exact Memory.mem_cons_cell h
    · split at h
      · rcases Memory.mem_cons_cell h with hc | hm
        · exact .inl hc
        · exact .inr (by simp [hm])
      · rcases List.mem_cons.mp h with rfl | hm
        · exact .inr (by simp)
        · rcases ih hm with hc | hm
          · exact .inl hc
          · exact .inr (by simp [hm])

theorem Memory.pairwise_cons_cell {m : Memory} {a : Nat} (v : Byte) (hs : m.Pairwise fun c d => c.1 < d.1)
    (ha : ∀ c ∈ m, a < c.1) : (Memory.cons a v m).Pairwise fun c d => c.1 < d.1 := by
  unfold Memory.cons
  split
  · exact hs
  · exact List.pairwise_cons.mpr ⟨ha, hs⟩

theorem Memory.pairwise_write {m : Memory} (a : Nat) (v : Byte) (hs : m.Pairwise fun c d => c.1 < d.1) :
    (Memory.write m a v).Pairwise fun c d => c.1 < d.1 := by
  induction m with
  | nil => exact Memory.pairwise_cons_cell v .nil (by simp)
  | cons c m ih =>
    obtain ⟨b, w⟩ := c
    have hp := List.pairwise_cons.mp hs
    unfold Memory.write
    split
    · next hab =>
      refine Memory.pairwise_cons_cell v hs fun c hm => ?_
      rcases List.mem_cons.mp hm with rfl | hm
      · exact hab
      · exact Nat.lt_trans hab (hp.1 c hm)
    · split
      · next hab => exact Memory.pairwise_cons_cell v hp.2 fun c hm => hab ▸ hp.1 c hm
      · refine List.pairwise_cons.mpr ⟨fun c hm => ?_, ih hp.2⟩
        rcases Memory.mem_write hm with ⟨rfl, -⟩ | hm
        · show b < a
          omega
        · exact hp.1 c hm

/-- A write inside the image keeps the canonical form. -/
theorem Memory.wf_write {m : Memory} {a : Nat} (v : Byte) (h : m.wf) (ha : a < Config.memSize) :
    (Memory.write m a v).wf := by
  refine ⟨Memory.pairwise_write a v h.1, fun c hc => ?_⟩
  rcases Memory.mem_write hc with ⟨rfl, hv⟩ | hm
  · exact ⟨ha, hv⟩
  · exact h.2 c hm

theorem Memory.wf_nil : Memory.wf [] := ⟨.nil, by simp⟩

/-! ## Several cells -/

@[simp] theorem Memory.readBytes_length (m : Memory) (a n : Nat) : (m.readBytes a n).length = n := by
  simp [Memory.readBytes]

@[simp] theorem Memory.readBytes_get (m : Memory) (a n k : Nat) (h : k < (m.readBytes a n).length) :
    (m.readBytes a n)[k] = m.read (a + k) := by
  simp [Memory.readBytes]

/-- Writing a range inside the image keeps the canonical form. -/
theorem Memory.wf_writeBytes {m : Memory} {a : Nat} (bs : List Byte) (h : m.wf)
    (hb : a + bs.length ≤ Config.memSize) : (m.writeBytes a bs).wf := by
  induction bs generalizing m a with
  | nil => exact h
  | cons b bs ih =>
    rw [List.length_cons] at hb
    exact ih (Memory.wf_write b h (by omega)) (by omega)

/-- Writing a range leaves every address outside it alone. -/
theorem Memory.read_writeBytes_outside (m : Memory) (bs : List Byte) {a k : Nat}
    (h : k < a ∨ a + bs.length ≤ k) : (m.writeBytes a bs).read k = m.read k := by
  induction bs generalizing m a with
  | nil => rfl
  | cons b bs ih =>
    rw [List.length_cons] at h
    rw [Memory.writeBytes, ih _ (by omega), Memory.read_write_ne m b (by omega)]

/-- Writing a range leaves each of its bytes at its address. -/
theorem Memory.read_writeBytes_inside {m : Memory} {bs : List Byte} {a : Nat} (h : m.wf)
    (hb : a + bs.length ≤ Config.memSize) (k : Nat) (hk : k < bs.length) :
    (m.writeBytes a bs).read (a + k) = bs[k] := by
  induction bs generalizing m a k with
  | nil => simp at hk
  | cons b bs ih =>
    rw [List.length_cons] at hb hk
    cases k with
    | zero =>
      rw [Memory.writeBytes, Memory.read_writeBytes_outside _ _ (by omega), Nat.add_zero,
        Memory.read_write_same m b a h, List.getElem_cons_zero]
    | succ k =>
      rw [Memory.writeBytes, show a + (k + 1) = a + 1 + k by omega,
        ih (Memory.wf_write b h (by omega)) (by omega) k (by omega), List.getElem_cons_succ]

/-! ## Bounds -/

theorem outOfBounds_none_iff (a n : Nat) : outOfBounds a n = none ↔ n = 0 ∨ a + n ≤ Config.memSize := by
  unfold outOfBounds
  split <;> simp_all

theorem outOfBounds_of_le {a n : Nat} (h : a + n ≤ Config.memSize) : outOfBounds a n = none :=
  (outOfBounds_none_iff a n).mpr (.inr h)

theorem outOfBounds_of_gt {a n : Nat} (hn : n ≠ 0) (h : Config.memSize < a + n) :
    outOfBounds a n = some (max a Config.memSize) := by
  rw [outOfBounds, if_neg (by omega)]

/-- When the check fails, the address it reports belongs to the access, is out of bounds, and no lower address of the
access is (R224). -/
theorem outOfBounds_lowest {a n e : Nat} (h : outOfBounds a n = some e) :
    a ≤ e ∧ e < a + n ∧ Config.memSize ≤ e ∧ ∀ k, a ≤ k → k < e → k < Config.memSize := by
  unfold outOfBounds at h
  split at h
  · cases h
  · next hn =>
    injection h with h
    exact ⟨by omega, by omega, by omega, fun k _ _ => by omega⟩

/-! ## Fetching -/

theorem fetch_of_le {m : Memory} {pc : Word} (h : pc.toNat + 2 ≤ Config.memSize) :
    fetch m pc = .ok (concatBytes (m.read pc.toNat) (m.read (pc.toNat + 1))) := by
  rw [fetch, outOfBounds_of_le h]

theorem fetch_of_gt {m : Memory} {pc : Word} (h : Config.memSize < pc.toNat + 2) :
    fetch m pc = .error (max pc.toNat Config.memSize) := by
  rw [fetch, outOfBounds_of_gt (by omega) h]

/-- A fetch and decode that succeeds: the fetch is in bounds and its opcode decodes. -/
theorem fetchDecode_ok_iff (s : State) (i : Instr) :
    fetchDecode s = .ok i ↔ ∃ op, fetch s.mem s.pc = .ok op ∧ decodeWord op = .ok i := by
  unfold fetchDecode
  cases hf : fetch s.mem s.pc with
  | error a => simp
  | ok op => cases hd : decodeWord op <;> simp [hd]

/-! ## Operand forms -/

theorem addrWord_toNat (nnn : Addr) : (addrWord nnn).toNat = nnn.toNat := by
  have := nnn.isLt
  rw [addrWord, BitVec.toNat_setWidth]
  omega

@[simp] theorem State.regRange_length (s : State) (x : Reg) : (s.regRange x).length = x.val + 1 := by
  have := x.isLt
  rw [State.regRange, List.length_take, Vector.length_toList]
  omega

theorem State.regRange_get (s : State) (x : Reg) (k : Nat) (h : k < (s.regRange x).length) :
    (s.regRange x)[k] = s.reg ⟨k, by have := s.regRange_length x; omega⟩ := by
  simp [State.regRange, State.reg]

@[simp] theorem bcdDigits_length (vx : Byte) : (bcdDigits vx).length = 3 := rfl

/-- A store through `I` raises when the range is out of bounds, and else completes with the bytes written. -/
theorem State.storeBytes_cases (s : State) (i : Instr) (bs : List Byte) :
    (∃ a, outOfBounds s.dataAddr bs.length = some a ∧ s.storeBytes i bs = s.raiseBounds i a) ∨
    (outOfBounds s.dataAddr bs.length = none ∧
      s.storeBytes i bs = ((s.setMem (s.mem.writeBytes s.dataAddr bs)).advance 2).complete) := by
  unfold State.storeBytes
  cases h : outOfBounds s.dataAddr bs.length with
  | some a => exact .inl ⟨a, rfl, rfl⟩
  | none => exact .inr ⟨rfl, rfl⟩

/-- Under the value of `KEY_OOR` that this hardware takes, every key query has an answer (R200). -/
theorem keyDown_eq (keys : Vector Bool 16) (v : Byte) :
    keyDown keys v = some (if h : v.toNat < 16 then keys[v.toNat] else false) := by
  unfold keyDown
  split <;> rfl

theorem keyPick_none_iff (keys : Vector Bool 16) : keyPick keys = none ↔ ∀ k : Fin 16, keys[k] = false := by
  simp [keyPick]

/-- The picked key is down, and no lower key is (R207). -/
theorem keyPick_some {keys : Vector Bool 16} {k : Fin 16} (h : keyPick keys = some k) :
    keys[k] = true ∧ ∀ j < k, keys[j] = false := by
  unfold keyPick at h
  rw [List.find?_eq_some_iff_getElem] at h
  obtain ⟨hk, i, hi, hik, hlt⟩ := h
  refine ⟨hk, fun j hj => ?_⟩
  rw [List.getElem_finRange] at hik
  have hji : j.val < i := by
    have := Fin.lt_def.mp hj
    rw [← hik] at this
    simpa using this
  simpa using hlt j.val hji

end Sys2Proof.Machine
end

