-- ==== Sys2Proof/Laws/Exec.lean ====
section
/-! SUPPORT. What executing an instruction and what a step can do, said once: the inversion lemmas that the claims about
every instruction start from. -/

namespace Sys2Proof.Machine

/-- A state against itself: the frame in which nothing is written. -/
theorem frame_refl (regs : Reg → Prop) (parts : List Part) (bytes : Nat → Prop) (s : State) :
    Frame regs parts bytes s s where
  reg _ _ := rfl
  index _ := rfl
  callStack _ := ⟨rfl, rfl⟩
  delayTimer _ := rfl
  display _ _ _ := rfl
  memory _ _ := rfl
  soundTimer := rfl
  mode := rfl
  inputs := ⟨rfl, rfl, rfl, rfl⟩

/-- If an instruction answers a next state, it completed and left the mode and the sound timer, or it waited and wrote
nothing, or it raised an error at its own `pc` and wrote nothing. -/
theorem exec_cases {i : Instr} {s t : State} (h : exec i s = .next t) :
    (t.result = some .ok ∧ t.mode = s.mode ∧ t.st = s.st) ∨ t = s.wait ∨
      ∃ e, t = s.faultWith e ∧ e.pc = s.pc := by
  cases i
  all_goals try (cases h; exact .inl ⟨rfl, rfl, rfl⟩)
  case ret =>
    simp only [exec, execRet] at h
    split at h <;> cases h
    · exact .inl ⟨rfl, rfl, rfl⟩
    · exact .inr (.inr ⟨_, rfl, rfl⟩)
  case call =>
    simp only [exec, execCall] at h
    split at h <;> cases h
    · exact .inl ⟨rfl, rfl, rfl⟩
    · exact .inr (.inr ⟨_, rfl, rfl⟩)
  case drw =>
    simp only [exec, execDrw] at h
    split at h <;> cases h
    · exact .inr (.inr ⟨_, rfl, rfl⟩)
    · exact .inl ⟨rfl, rfl, rfl⟩
  case skp =>
    simp only [exec, execSkp, keyDown_eq] at h
    cases h
    exact .inl ⟨rfl, rfl, rfl⟩
  case sknp =>
    simp only [exec, execSknp, keyDown_eq] at h
    cases h
    exact .inl ⟨rfl, rfl, rfl⟩
  case ldKey =>
    simp only [exec, execLdKey] at h
    split at h <;> cases h
    · exact .inr (.inl rfl)
    · exact .inl ⟨rfl, rfl, rfl⟩
  case ldBcd =>
    simp only [exec, execLdBcd, State.storeBytes] at h
    split at h <;> cases h
    · exact .inr (.inr ⟨_, rfl, rfl⟩)
    · exact .inl ⟨rfl, rfl, rfl⟩
  case storeRegs =>
    simp only [exec, execStoreRegs, State.storeBytes] at h
    split at h <;> cases h
    · exact .inr (.inr ⟨_, rfl, rfl⟩)
    · exact .inl ⟨rfl, rfl, rfl⟩
  case loadRegs =>
    simp only [exec, execLoadRegs] at h
    split at h <;> cases h
    · exact .inr (.inr ⟨_, rfl, rfl⟩)
    · exact .inl ⟨rfl, rfl, rfl⟩

/-- An error of the fetch or of the decoder names `pc` (R226). -/
theorem fetchDecode_error_pc {s : State} {e : FatalError} (h : fetchDecode s = .error e) : e.pc = s.pc := by
  unfold fetchDecode at h
  split at h
  · cases h
    rfl
  · split at h <;> cases h
    rfl

/-- The timer unit's turn. -/
theorem step_timerTurn {s : State} {n : Nat} (h : s.ticksDue = n + 1) : step s = .next (s.timerTurn n) := by
  simp only [step, h]

/-- The Executor's turn. -/
theorem step_executor {s : State} (h : s.ticksDue = 0) : step s = executorStep s.admitHost := by
  simp only [step, h]

/-- If the Executor's step answers a next state, the machine was faulted and stays so, or the fetch or the decoder raised,
or the decoded instruction was executed. -/
theorem executorStep_cases {s t : State} (h : executorStep s = .next t) :
    (∃ e, s.mode = .faulted e ∧ t = s.faultWith e) ∨
    (∃ e, s.mode = .running ∧ fetchDecode s = .error e ∧ t = s.faultWith e) ∨
    ∃ i, s.mode = .running ∧ fetchDecode s = .ok i ∧ exec i s = .next t := by
  cases hm : s.mode with
  | faulted e =>
    simp only [executorStep, hm, State.raise_eq] at h
    injection h with h
    exact .inl ⟨e, rfl, h.symm⟩
  | running =>
    refine .inr ?_
    cases hf : fetchDecode s with
    | error e =>
      simp only [executorStep, hm, hf, State.raise_eq] at h
      injection h with h
      exact .inl ⟨e, rfl, rfl, h.symm⟩
    | ok i => exact .inr ⟨i, rfl, rfl, by simpa only [executorStep, hm, hf] using h⟩

/-- If a step answers a next state, it was the timer unit's turn and one tick happened, or it was the Executor's and the
machine was faulted and stays so, or the fetch or the decoder raised, or the decoded instruction was executed. -/
theorem step_cases {s t : State} (h : step s = .next t) :
    (∃ n, s.ticksDue = n + 1 ∧ t = s.timerTurn n) ∨ s.ticksDue = 0 ∧
      ((∃ e, s.mode = .faulted e ∧ t = s.admitHost.faultWith e) ∨
      (∃ e, s.mode = .running ∧ fetchDecode s = .error e ∧ t = s.admitHost.faultWith e) ∨
      ∃ i, s.mode = .running ∧ fetchDecode s = .ok i ∧ exec i s.admitHost = .next t) := by
  cases hd : s.ticksDue with
  | succ n =>
    rw [step_timerTurn hd] at h
    injection h with h
    exact .inl ⟨n, rfl, h.symm⟩
  | zero =>
    rw [step_executor hd] at h
    exact .inr ⟨rfl, executorStep_cases h⟩

end Sys2Proof.Machine
end

