-- ==== Sys2Proof/Laws/Syntax.lean ====
section
/-! SUPPORT. The operand fields of every instruction are well formed, and the fields of the three word shapes read back. -/

namespace Sys2Proof

/-- Every instruction is well formed: the types of its operands bound them (R76). -/
theorem wellFormed_all (i : Instr) : i.wellFormed = true := by
  have hk (kk : Byte) : kk.toNat < 256 := kk.isLt
  have hn (nnn : Addr) : nnn.toNat < 4096 := nnn.isLt
  cases i <;> simp [Instr.wellFormed, Instr.fields, fieldsWellFormed, Field.fits, Field.apart, fieldX, fieldY, fieldN,
    fieldKk, fieldNnn, hk, hn]

/-! ## Fields of a concatenation -/

theorem extract_append_high {n m : Nat} (a : BitVec n) (b : BitVec m) : (a ++ b).extractLsb' m n = a := by
  apply BitVec.eq_of_getLsbD_eq
  intro i hi
  simp [BitVec.getLsbD_append, hi]

theorem extract_append_low {n m : Nat} (a : BitVec n) (b : BitVec m) (s w : Nat) (h : s + w ≤ m) :
    (a ++ b).extractLsb' s w = b.extractLsb' s w := by
  apply BitVec.eq_of_getLsbD_eq
  intro i hi
  simp [BitVec.getLsbD_append, hi, show s + i < m by omega]

theorem extract_self {n : Nat} (b : BitVec n) : b.extractLsb' 0 n = b := by simp

/-! ## Fields of the word shapes (R71, R72) -/

@[simp] theorem opA_wordNnn (a : BitVec 4) (nnn : Addr) : opA (wordNnn a nnn) = a := extract_append_high a nnn

@[simp] theorem opNnn_wordNnn (a : BitVec 4) (nnn : Addr) : opNnn (wordNnn a nnn) = nnn :=
  (extract_append_low a nnn 0 12 (by omega)).trans (extract_self nnn)

@[simp] theorem opA_wordXKk (a : BitVec 4) (x : Reg) (kk : Byte) : opA (wordXKk a x kk) = a := extract_append_high a _

@[simp] theorem opX_wordXKk (a : BitVec 4) (x : Reg) (kk : Byte) : opX (wordXKk a x kk) = x := by
  unfold opX wordXKk
  rw [extract_append_low a _ 8 4 (by omega), extract_append_high]

@[simp] theorem opKk_wordXKk (a : BitVec 4) (x : Reg) (kk : Byte) : opKk (wordXKk a x kk) = kk := by
  unfold opKk wordXKk
  rw [extract_append_low a _ 0 8 (by omega), extract_append_low _ _ 0 8 (by omega), extract_self]

@[simp] theorem opA_wordXYD (a : BitVec 4) (x y : Reg) (d : BitVec 4) : opA (wordXYD a x y d) = a :=
  extract_append_high a _

@[simp] theorem opX_wordXYD (a : BitVec 4) (x y : Reg) (d : BitVec 4) : opX (wordXYD a x y d) = x := by
  unfold opX wordXYD
  rw [extract_append_low a _ 8 4 (by omega), extract_append_high]

@[simp] theorem opY_wordXYD (a : BitVec 4) (x y : Reg) (d : BitVec 4) : opY (wordXYD a x y d) = y := by
  unfold opY wordXYD
  rw [extract_append_low a _ 4 4 (by omega), extract_append_low _ _ 4 4 (by omega), extract_append_high]

@[simp] theorem opD_wordXYD (a : BitVec 4) (x y : Reg) (d : BitVec 4) : opD (wordXYD a x y d) = d := by
  unfold opD wordXYD
  rw [extract_append_low a _ 0 4 (by omega), extract_append_low _ _ 0 4 (by omega),
    extract_append_low _ _ 0 4 (by omega), extract_self]

@[simp] theorem opN_wordXYD (a : BitVec 4) (x y : Reg) (n : Fin 16) :
    opN (wordXYD a x y (BitVec.ofFin (w := 4) n)) = n :=
  congrArg BitVec.toFin (opD_wordXYD a x y (BitVec.ofFin (w := 4) n))

/-- The two bytes of an opcode join to the opcode (R56). -/
@[simp] theorem concatBytes_high_low (op : Word) : concatBytes (highByte op) (lowByte op) = op := by
  apply BitVec.eq_of_getLsbD_eq
  intro i hi
  simp only [concatBytes, highByte, lowByte, BitVec.getLsbD_append, BitVec.getLsbD_extractLsb']
  split
  · simp_all
  · simp [show 8 + (i - 8) = i by omega]
    omega

/-- An opcode is its family and its low 12 bits. -/
theorem opA_append_opNnn (op : Word) : opA op ++ opNnn op = op := by
  apply BitVec.eq_of_getLsbD_eq
  intro i hi
  simp only [opA, opNnn, BitVec.getLsbD_append, BitVec.getLsbD_extractLsb']
  split
  · simp_all
  · simp [show 12 + (i - 12) = i by omega]
    omega

/-- The low 12 bits of an opcode are `x` and `kk`. -/
theorem opX_append_opKk (op : Word) : BitVec.ofFin (w := 4) (opX op) ++ opKk op = opNnn op := by
  apply BitVec.eq_of_getLsbD_eq
  intro i hi
  show (op.extractLsb' 8 4 ++ op.extractLsb' 0 8).getLsbD i = (op.extractLsb' 0 12).getLsbD i
  simp only [BitVec.getLsbD_append, BitVec.getLsbD_extractLsb']
  split
  · simp_all
  · simp [show 8 + (i - 8) = i by omega, hi]
    omega

/-- The low byte of an opcode is `y` and the low nibble. -/
theorem opY_append_opD (op : Word) : BitVec.ofFin (w := 4) (opY op) ++ opD op = opKk op := by
  apply BitVec.eq_of_getLsbD_eq
  intro i hi
  show (op.extractLsb' 4 4 ++ op.extractLsb' 0 4).getLsbD i = (op.extractLsb' 0 8).getLsbD i
  simp only [BitVec.getLsbD_append, BitVec.getLsbD_extractLsb']
  split
  · simp_all
  · simp [show 4 + (i - 4) = i by omega, hi]
    omega

/-- An opcode of the shape `a nnn` is its own fields joined. -/
theorem wordNnn_fields (op : Word) : wordNnn (opA op) (opNnn op) = op := opA_append_opNnn op

/-- An opcode of the shape `a x kk` is its own fields joined. -/
theorem wordXKk_fields (op : Word) : wordXKk (opA op) (opX op) (opKk op) = op := by
  rw [wordXKk, opX_append_opKk, opA_append_opNnn]

/-- An opcode of the shape `a x y d` is its own fields joined. -/
theorem wordXYD_fields (op : Word) : wordXYD (opA op) (opX op) (opY op) (opD op) = op := by
  rw [wordXYD, opY_append_opD, opX_append_opKk, opA_append_opNnn]

/-! ## The masked bits of the word shapes (R78) -/

theorem and_nibble (a : BitVec 4) : a &&& 0xF#4 = a := BitVec.and_allOnes

theorem and_byte (b : BitVec 8) : b &&& 0xFF#8 = b := BitVec.and_allOnes

/-- Under the mask `0xF000` only the family is left. -/
theorem wordNnn_family (a : BitVec 4) (nnn : Addr) : wordNnn a nnn &&& 0xF000 = a ++ 0#12 := by
  rw [wordNnn, show (0xF000 : Word) = 0xF#4 ++ 0#12 from rfl, BitVec.and_append, and_nibble, BitVec.and_zero]

theorem wordXKk_family (a : BitVec 4) (x : Reg) (kk : Byte) : wordXKk a x kk &&& 0xF000 = a ++ 0#12 :=
  wordNnn_family a _

theorem wordXYD_family (a : BitVec 4) (x y : Reg) (d : BitVec 4) : wordXYD a x y d &&& 0xF000 = a ++ 0#12 :=
  wordNnn_family a _

/-- Under the mask `0xF0FF` only the family and the low byte are left. -/
theorem wordXKk_lowByte (a : BitVec 4) (x : Reg) (kk : Byte) : wordXKk a x kk &&& 0xF0FF = a ++ (0#4 ++ kk) := by
  rw [wordXKk, show (0xF0FF : Word) = 0xF#4 ++ (0#4 ++ 0xFF#8) from rfl, BitVec.and_append, BitVec.and_append,
    and_nibble, and_byte, BitVec.and_zero]

/-- Under the mask `0xF00F` only the family and the low nibble are left. -/
theorem wordXYD_lowNibble (a : BitVec 4) (x y : Reg) (d : BitVec 4) :
    wordXYD a x y d &&& 0xF00F = a ++ (0#4 ++ (0#4 ++ d)) := by
  rw [wordXYD, show (0xF00F : Word) = 0xF#4 ++ (0#4 ++ (0#4 ++ 0xF#4)) from rfl, BitVec.and_append, BitVec.and_append,
    BitVec.and_append, and_nibble, and_nibble, BitVec.and_zero, BitVec.and_zero]

/-! ## What a masked match says of the fields -/

theorem opA_of_masked {op w : Word} (h : op &&& 0xF000 = w) : opA op = opA w := by
  rw [← wordNnn_fields op, wordNnn_family] at h
  rw [← h]
  exact (opA_wordNnn (opA op) 0#12).symm

theorem fields_of_masked_lowByte {op w : Word} (h : op &&& 0xF0FF = w) : opA op = opA w ∧ opKk op = opKk w := by
  rw [← wordXKk_fields op, wordXKk_lowByte] at h
  rw [← h]
  exact ⟨(opA_wordXKk (opA op) 0 (opKk op)).symm, (opKk_wordXKk (opA op) 0 (opKk op)).symm⟩

theorem fields_of_masked_lowNibble {op w : Word} (h : op &&& 0xF00F = w) : opA op = opA w ∧ opD op = opD w := by
  rw [← wordXYD_fields op, wordXYD_lowNibble] at h
  rw [← h]
  exact ⟨(opA_wordXYD (opA op) 0 0 (opD op)).symm, (opD_wordXYD (opA op) 0 0 (opD op)).symm⟩

end Sys2Proof
end

