-- ==== Sys2Proof/Laws/PerInstr.lean ====
section
/-! SUPPORT. Families of statements made per instruction, one lemma per constructor. -/

namespace Sys2Proof.Laws

/-- An instruction's word belongs to the instruction's own row of the opcode map, which is a row of R78, and the
instruction is well formed. -/
def OwnRow.Statement (i : Instr) : Prop :=
  i.wellFormed = true ∧ i.row ∈ opcodeMap ∧ i.row.covers (encode i) = true

/-- Every instruction's row is a row of the opcode map. -/
theorem row_mem_opcodeMap (i : Instr) : i.row ∈ opcodeMap := by
  cases i <;> simp [opcodeMap, oneOfEachRow, Instr.row]

theorem ownRow_of_masked {i : Instr} (h : encode i &&& i.row.mask = i.row.value) : OwnRow.Statement i :=
  ⟨wellFormed_all i, row_mem_opcodeMap i, decide_eq_true h⟩

theorem OwnRow.cls : OwnRow.Statement .cls := ownRow_of_masked rfl
theorem OwnRow.ret : OwnRow.Statement .ret := ownRow_of_masked rfl
theorem OwnRow.jp (nnn : Addr) : OwnRow.Statement (.jp nnn) := ownRow_of_masked (wordNnn_family 0x1 nnn)
theorem OwnRow.call (nnn : Addr) : OwnRow.Statement (.call nnn) := ownRow_of_masked (wordNnn_family 0x2 nnn)
theorem OwnRow.seImm (x : Reg) (kk : Byte) : OwnRow.Statement (.seImm x kk) :=
  ownRow_of_masked (wordXKk_family 0x3 x kk)
theorem OwnRow.sneImm (x : Reg) (kk : Byte) : OwnRow.Statement (.sneImm x kk) :=
  ownRow_of_masked (wordXKk_family 0x4 x kk)
theorem OwnRow.ldImm (x : Reg) (kk : Byte) : OwnRow.Statement (.ldImm x kk) :=
  ownRow_of_masked (wordXKk_family 0x6 x kk)
theorem OwnRow.addImm (x : Reg) (kk : Byte) : OwnRow.Statement (.addImm x kk) :=
  ownRow_of_masked (wordXKk_family 0x7 x kk)
theorem OwnRow.ldReg (x y : Reg) : OwnRow.Statement (.ldReg x y) :=
  ownRow_of_masked (wordXYD_lowNibble 0x8 x y 0x0)
theorem OwnRow.andReg (x y : Reg) : OwnRow.Statement (.andReg x y) :=
  ownRow_of_masked (wordXYD_lowNibble 0x8 x y 0x2)
theorem OwnRow.addReg (x y : Reg) : OwnRow.Statement (.addReg x y) :=
  ownRow_of_masked (wordXYD_lowNibble 0x8 x y 0x4)
theorem OwnRow.subReg (x y : Reg) : OwnRow.Statement (.subReg x y) :=
  ownRow_of_masked (wordXYD_lowNibble 0x8 x y 0x5)
theorem OwnRow.shr (x y : Reg) : OwnRow.Statement (.shr x y) :=
  ownRow_of_masked (wordXYD_lowNibble 0x8 x y 0x6)
theorem OwnRow.sneReg (x y : Reg) : OwnRow.Statement (.sneReg x y) :=
  ownRow_of_masked (wordXYD_lowNibble 0x9 x y 0x0)
theorem OwnRow.ldIndex (nnn : Addr) : OwnRow.Statement (.ldIndex nnn) :=
  ownRow_of_masked (wordNnn_family 0xA nnn)
theorem OwnRow.rndImm (x : Reg) (kk : Byte) : OwnRow.Statement (.rndImm x kk) :=
  ownRow_of_masked (wordXKk_family 0xC x kk)
theorem OwnRow.drw (x y : Reg) (n : Fin 16) : OwnRow.Statement (.drw x y n) :=
  ownRow_of_masked (wordXYD_family 0xD x y _)
theorem OwnRow.skp (x : Reg) : OwnRow.Statement (.skp x) := ownRow_of_masked (wordXKk_lowByte 0xE x 0x9E)
theorem OwnRow.sknp (x : Reg) : OwnRow.Statement (.sknp x) := ownRow_of_masked (wordXKk_lowByte 0xE x 0xA1)
theorem OwnRow.ldFromDt (x : Reg) : OwnRow.Statement (.ldFromDt x) :=
  ownRow_of_masked (wordXKk_lowByte 0xF x 0x07)
theorem OwnRow.ldToDt (x : Reg) : OwnRow.Statement (.ldToDt x) := ownRow_of_masked (wordXKk_lowByte 0xF x 0x15)
theorem OwnRow.ldKey (x : Reg) : OwnRow.Statement (.ldKey x) := ownRow_of_masked (wordXKk_lowByte 0xF x 0x0A)
theorem OwnRow.addIndex (x : Reg) : OwnRow.Statement (.addIndex x) :=
  ownRow_of_masked (wordXKk_lowByte 0xF x 0x1E)
theorem OwnRow.ldFont (x : Reg) : OwnRow.Statement (.ldFont x) := ownRow_of_masked (wordXKk_lowByte 0xF x 0x29)
theorem OwnRow.ldBcd (x : Reg) : OwnRow.Statement (.ldBcd x) := ownRow_of_masked (wordXKk_lowByte 0xF x 0x33)
theorem OwnRow.storeRegs (x : Reg) : OwnRow.Statement (.storeRegs x) :=
  ownRow_of_masked (wordXKk_lowByte 0xF x 0x55)
theorem OwnRow.loadRegs (x : Reg) : OwnRow.Statement (.loadRegs x) :=
  ownRow_of_masked (wordXKk_lowByte 0xF x 0x65)

end Sys2Proof.Laws
end

