-- ==== Sys2Proof/Tests/Slice0.lean ====
section
/-! SUPPORT. Tests: ill-formed operands refused; a word of every row, written out from the patterns of R78, decoded; single
steps with the expected results of 95_test_vectors.md; and, for every statement with hypotheses, a state and operands that
meet them, at the ends of their ranges. -/

namespace Sys2Proof.Tests

open Sys2Proof Sys2Proof.Machine

/-! ## Well-formedness -/

theorem test_field_accepts_last_value : fieldsWellFormed [⟨"x", 8, 4, 15⟩, ⟨"kk", 0, 8, 255⟩] = true := by decide
theorem test_field_refuses_too_large_value : fieldsWellFormed [⟨"x", 8, 4, 16⟩] = false := by decide
theorem test_field_refuses_past_the_word : fieldsWellFormed [⟨"x", 13, 4, 1⟩] = false := by decide
theorem test_fields_refuse_shared_bits : fieldsWellFormed [⟨"y", 4, 4, 1⟩, ⟨"kk", 0, 8, 1⟩] = false := by decide
theorem test_drw_well_formed : (Instr.drw 15 15 15).wellFormed = true := by decide

/-! ## Decoding: one word of each row of R78 -/

theorem test_decode_cls : decodeWord 0x00E0 = .ok .cls := by decide
theorem test_decode_ret : decodeWord 0x00EE = .ok .ret := by decide
theorem test_decode_jp : decodeWord 0x1ABC = .ok (.jp 0xABC) := by decide
theorem test_decode_call : decodeWord 0x2300 = .ok (.call 0x300) := by decide
theorem test_decode_seImm : decodeWord 0x3306 = .ok (.seImm 3 0x06) := by decide
theorem test_decode_sneImm : decodeWord 0x43FE = .ok (.sneImm 3 0xFE) := by decide
theorem test_decode_ldImm : decodeWord 0x6A42 = .ok (.ldImm 10 0x42) := by decide
theorem test_decode_addImm : decodeWord 0x750A = .ok (.addImm 5 0x0A) := by decide
theorem test_decode_ldReg : decodeWord 0x8120 = .ok (.ldReg 1 2) := by decide
theorem test_decode_andReg : decodeWord 0x8012 = .ok (.andReg 0 1) := by decide
theorem test_decode_addReg : decodeWord 0x8F14 = .ok (.addReg 15 1) := by decide
theorem test_decode_subReg : decodeWord 0x8015 = .ok (.subReg 0 1) := by decide
theorem test_decode_shr : decodeWord 0x81F6 = .ok (.shr 1 15) := by decide
theorem test_decode_sneReg : decodeWord 0x9120 = .ok (.sneReg 1 2) := by decide
theorem test_decode_ldIndex : decodeWord 0xAFFF = .ok (.ldIndex 0xFFF) := by decide
theorem test_decode_rndImm : decodeWord 0xC30F = .ok (.rndImm 3 0x0F) := by decide
theorem test_decode_drw : decodeWord 0xD125 = .ok (.drw 1 2 5) := by decide
theorem test_decode_skp : decodeWord 0xE19E = .ok (.skp 1) := by decide
theorem test_decode_sknp : decodeWord 0xE1A1 = .ok (.sknp 1) := by decide
theorem test_decode_ldFromDt : decodeWord 0xF307 = .ok (.ldFromDt 3) := by decide
theorem test_decode_ldToDt : decodeWord 0xFA15 = .ok (.ldToDt 10) := by decide
theorem test_decode_ldKey : decodeWord 0xF10A = .ok (.ldKey 1) := by decide
theorem test_decode_addIndex : decodeWord 0xF21E = .ok (.addIndex 2) := by decide
theorem test_decode_ldFont : decodeWord 0xF629 = .ok (.ldFont 6) := by decide
theorem test_decode_ldBcd : decodeWord 0xF033 = .ok (.ldBcd 0) := by decide
theorem test_decode_storeRegs : decodeWord 0xF355 = .ok (.storeRegs 3) := by decide
theorem test_decode_loadRegs : decodeWord 0xF265 = .ok (.loadRegs 2) := by decide

/-- The failures of 95_test_vectors.md V4, V6, V8, V11, V12, V15, V17. -/
theorem test_decode_failures :
    ([0x0000, 0x00E1, 0x0FFF, 0x5120, 0x8121, 0x8127, 0x812E, 0x9121, 0xB200, 0xE19F, 0xE100, 0xF118, 0xFFFF] : List Word).all
      (fun w => decodeWord w == .error (.noRow w)) = true := by decide

theorem test_decode_table_word : decodeTableWord 16 0xD125 = some (.drw 1 2 5) := by decide
theorem test_decode_needs_two_bytes : decode [0x12] = .error .tooShort := by decide

/-! ## Single instructions -/

/-- The next state, or the state after reset where there is none. -/
def after : Outcome → State
  | .next t => t
  | .fault r => nomatch r
  | .refused _ => State.reset

/-- The state after reset with some registers and the index register set. -/
def withRegs (rs : List (Reg × Byte)) (i : Word := 0x300) : State :=
  (rs.foldl (fun s p => s.setReg p.1 p.2) State.reset).setIndex i

/-- The state with one byte stored at `I = 0x300`. -/
def withSprite (rs : List (Reg × Byte)) (b : Byte) : State :=
  (withRegs rs).setMem (Memory.write [] 0x300 b)

/-- The cells that are on, row by row. -/
def cellsOn (s : State) : List (Nat × Nat) :=
  (List.finRange 32).flatMap fun y => ((List.finRange 64).filter fun x => s.pixel x y).map fun x => (x.val, y.val)

/-- Vector D1. -/
theorem test_cls : cellsOn (after (execCls (State.reset.setDisp (Display.toggle State.reset.disp 63 31)))) = [] := by decide
/-- Vector C8. -/
theorem test_ret : (after (execRet (State.reset.push 0x204 (by decide)))).pc = 0x204 := by decide
/-- Vector C9. -/
theorem test_ret_underflow : (after (execRet State.reset)).mode = .faulted (.stackError 0x200 0x00EE .underflow) := by decide
/-- Vector C1. -/
theorem test_jp : (after (execJp 0x234 State.reset)).pc = 0x234 := by decide
/-- Vector C6, W13: the pushed address is `0x208`. -/
theorem test_call : (after (execCall 0x300 (State.reset.setPc 0x206))).stack[0] = 0x208 := by decide
/-- Vector C7. -/
theorem test_call_overflow :
    (after (execCall 0x300 { State.reset with sp := 16, pc := 0x400 })).mode =
      .faulted (.stackError 0x400 0x2300 .overflow) := by decide
/-- Vector W12. -/
theorem test_seImm : (after (execSeImm 3 0x06 ((withRegs [(3, 0x06)]).setPc 0x20A))).pc = 0x20E := by decide
/-- Vector C11. -/
theorem test_sneImm : (after (execSneImm 3 0x06 ((withRegs [(3, 0x06)]).setPc 0x20A))).pc = 0x20C := by decide
/-- Vector C12. -/
theorem test_sneReg : (after (execSneReg 1 2 ((withRegs [(1, 1), (2, 2)]).setPc 0x300))).pc = 0x304 := by decide
/-- Vector A2. -/
theorem test_ldImm : (after (execLdImm 15 0x00 (withRegs [(15, 0x01)]))).reg 15 = 0x00 := by decide
/-- Vector W2. -/
theorem test_addImm :
    (fun t : State => (t.reg 5, t.reg 15)) (after (execAddImm 5 10 (withRegs [(5, 250), (15, 0x5A)]))) = (4, 0x5A) := by decide
/-- Vector A6. -/
theorem test_ldReg : (after (execLdReg 1 2 (withRegs [(1, 0x33), (2, 0x7A)]))).reg 1 = 0x7A := by decide
/-- Vector A7. -/
theorem test_andReg :
    (fun t : State => (t.reg 0, t.reg 15)) (after (execAndReg 0 1 (withRegs [(0, 0xF0), (1, 0x3C), (15, 1)]))) =
      (0x30, 1) := by decide
/-- Vector A8. -/
theorem test_addReg :
    (fun t : State => (t.reg 0, t.reg 15)) (after (execAddReg 0 1 (withRegs [(0, 0xFF), (1, 0x01)]))) = (0, 1) := by decide
/-- Vector A12: with `x = 0xF` the carry is left. -/
theorem test_addReg_flag_is_destination : (after (execAddReg 15 1 (withRegs [(15, 0x10), (1, 0xF5)]))).reg 15 = 1 := by decide
/-- Vector A15. -/
theorem test_subReg :
    (fun t : State => (t.reg 0, t.reg 15)) (after (execSubReg 0 1 (withRegs [(0, 0x03), (1, 0x05)]))) = (0xFE, 0) := by decide
/-- Vector A16. -/
theorem test_subReg_equal :
    (fun t : State => (t.reg 0, t.reg 15)) (after (execSubReg 0 1 (withRegs [(0, 0x04), (1, 0x04)]))) = (0, 1) := by decide
/-- The table of `SUB_FLAG` in 95_test_vectors.md, at its equal operands. -/
theorem test_subFlag_table :
    (subFlagOf .ge 4 4, subFlagOf .gt 4 4, subFlagOf .borrow 4 4, subFlagOf .borrow 3 5) = (true, false, false, true) := by decide
/-- Vector A22. -/
theorem test_shr :
    (fun t : State => (t.reg 0, t.reg 15, t.reg 5)) (after (execShr 0 5 (withRegs [(0, 1), (5, 0xFF)]))) =
      (0, 1, 0xFF) := by decide
/-- Vector A23: with `x = 0xF` the shifted value is left. -/
theorem test_shr_flag_is_destination : (after (execShr 15 0 (withRegs [(15, 5)]))).reg 15 = 2 := by decide
/-- Vector A24. -/
theorem test_rndImm : (after (execRndImm 3 0x0F { State.reset with rnd := 0xA7 })).reg 3 = 0x07 := by decide
/-- Vector M2. -/
theorem test_ldIndex : (after (execLdIndex 0xFFF State.reset)).index = 0x0FFF := by decide
/-- Vector M4. -/
theorem test_addIndex : (after (execAddIndex 0 (withRegs [(0, 1)] 0xFFFF))).index = 0x0000 := by decide
/-- Vector M7. -/
theorem test_ldFont : (after (execLdFont 0 (withRegs [(0, 0xFF)]))).index = 0x4FB := by decide
/-- Vectors W5, W11. -/
theorem test_ldBcd :
    (after (execLdBcd 0 (withRegs [(0, 123)]))).mem.readBytes 0x300 3 = [1, 2, 3] := by decide
/-- Vector M13. -/
theorem test_ldBcd_out_of_bounds :
    (after (execLdBcd 0 (withRegs [(0, 255)] 0xFFD))).mode =
      .faulted (.memoryBoundsError 0x200 (some 0xF033) 0xFFF) := by decide
/-- Vector W6. -/
theorem test_storeRegs :
    (after (execStoreRegs 3 (withRegs [(0, 1), (1, 2), (2, 3), (3, 4), (4, 5)] 0x310))).mem.readBytes 0x310 5 =
      [1, 2, 3, 4, 0] := by decide
/-- Vector M16: no byte is written. -/
theorem test_storeRegs_out_of_bounds :
    (after (execStoreRegs 1 (withRegs [(0, 0x11), (1, 0x22)] 0xFFE))).mem = [] := by decide
/-- Vector M18: glyph 0 of the font. -/
theorem test_loadRegs :
    (after (execLoadRegs 4 (withRegs [] 0))).v.toList.take 6 = [0xF0, 0x90, 0x90, 0x90, 0xF0, 0x00] := by decide
/-- Vector M20. -/
theorem test_loadRegs_out_of_bounds :
    (after (execLoadRegs 15 (withRegs [] 0xFF0))).mode =
      .faulted (.memoryBoundsError 0x200 (some 0xFF65) 0xFFF) := by decide
/-- Vector D3: the sprite wraps on the right edge. -/
theorem test_drw_wraps :
    cellsOn (after (execDrw 0 1 1 (withSprite [(0, 60), (1, 0)] 0xFF))) =
      [(0, 0), (1, 0), (2, 0), (3, 0), (60, 0), (61, 0), (62, 0), (63, 0)] := by decide
/-- Vector D6: a collision. -/
theorem test_drw_collides :
    (fun t : State => (cellsOn t, t.reg 15))
      (after (execDrw 0 1 1 ((withSprite [] 0xF0).setDisp (Display.toggle State.reset.disp 2 0)))) =
      ([(0, 0), (1, 0), (3, 0)], 1) := by decide
/-- Vector K1. -/
theorem test_skp :
    (after (execSkp 1 { withRegs [(1, 7)] with keys := (Vector.replicate 16 false).set 7 true, pc := 0x300 })).pc =
      0x304 := by decide
/-- Vector K5: key `0x17` is never down. -/
theorem test_sknp :
    (after (execSknp 1 { withRegs [(1, 0x17)] with keys := (Vector.replicate 16 false).set 7 true, pc := 0x300 })).pc =
      0x304 := by decide
/-- Vector K10. -/
theorem test_ldFromDt : (after (execLdFromDt 3 (State.reset.setDt 0x2A))).reg 3 = 0x2A := by decide
/-- Vector K12. -/
theorem test_ldToDt : (after (execLdToDt 0 ((withRegs [(0, 0xC8)]).setDt 1))).dt = 0xC8 := by decide
/-- Vector K6. -/
theorem test_ldKey :
    (fun t : State => (t.reg 5, t.pc))
      (after (execLdKey 5
        { State.reset with keys := ((Vector.replicate 16 false).set 3 true).set 9 true, pc := 0x204 })) =
      (3, 0x206) := by decide
/-- Vector K8. -/
theorem test_ldKey_waits :
    (fun t : State => (t.pc, t.result)) (after (execLdKey 5 (State.reset.setPc 0x204))) = (0x204, some .wait) := by decide

/-! ## Steps, timers and the load -/

/-- Vector R2: an empty ROM. -/
theorem test_step_empty_rom : (after (step State.reset)).mode = .faulted (.decodeError 0x200 0x0000) := by decide
/-- Vector V19. -/
theorem test_step_fetch_out_of_bounds :
    (after (step (State.reset.setPc 0xFFE))).mode = .faulted (.memoryBoundsError 0xFFE none 0xFFF) := by decide
/-- Vector V18: the last word that can be fetched. -/
theorem test_step_last_word : (after (step ((State.reset.setPc 0xFFD).withFetchWord 16 0x00E0))).pc = 0xFFF := by decide
/-- Vector A1, through fetch and decode. -/
theorem test_step_runs : (after (step (State.reset.withFetchWord 16 0x6A42))).reg 10 = 0x42 := by decide
/-- Vector V21: a faulted machine stays faulted. -/
theorem test_step_faulted :
    (after (step ((State.reset.withFetchWord 16 0x6A42).faultWith (.decodeError 1 2)))).result =
      some (.fatal (.decodeError 1 2)) := by decide
/-- Vectors R5, R7. -/
theorem test_tick :
    ((State.reset.setDt 2).tick.dt, State.reset.tick.dt, ((State.reset.setDt 3).faultWith (.decodeError 1 2)).tick.dt) =
      (1, 0, 2) := by decide
/-- R236: while a tick is due, a step is that tick and no instruction runs. -/
theorem test_step_tick :
    (fun t : State => (t.dt, t.pc, t.ticksDue))
      (after (step { State.reset.withFetchWord 16 0x6A42 with dt := 2, ticksDue := 3 })) = (1, 0x200, 2) := by decide
/-- Vector R1. -/
theorem test_load : (after (State.reset.load [0x60, 0x01])).mem = [(0x200, 0x60), (0x201, 0x01)] := by decide

/-! ## Witnesses: every statement's hypotheses can be met -/

theorem test_witness_DecodeOfEncode : (Instr.shr 15 15).wellFormed = true := by decide
theorem test_witness_EncodeOfDecode : decodeWord 0x8126 = .ok (.shr 1 2) := by decide
theorem test_witness_OpcodeMapDisjoint :
    (Instr.shr 0 0).row ∈ opcodeMap ∧ (Instr.shr 0 0).row.covers 0x8FF6 = true := by decide
theorem test_witness_DecodableWordsByFamily :
    (opA 0x0000 = 0x0 ∧ opA 0x8FFF = 0x8 ∧ opA 0x9000 = 0x9 ∧ opA 0xEFFF = 0xE ∧ opA 0xF000 = 0xF) ∧
    (opA 0x5000 ∈ ([0x5, 0xB] : List (BitVec 4)) ∧ opA 0xBFFF ∈ ([0x5, 0xB] : List (BitVec 4))) ∧
    opA 0xDFFF ∈ ([0x1, 0x2, 0x3, 0x4, 0x6, 0x7, 0xA, 0xC, 0xD] : List (BitVec 4)) := by decide
theorem test_witness_undecodable_word : ¬ ∃ i, decodeWord 0x00E1 = .ok i := by
  rintro ⟨i, h⟩
  cases h
theorem replicate_fits (n m : Nat) (h : n ≤ m) : (List.replicate n (0 : Byte)).length ≤ m :=
  List.length_replicate.trans_le h
theorem replicate_too_long (n m : Nat) (h : m < n) : m < (List.replicate n (0 : Byte)).length :=
  h.trans_eq List.length_replicate.symm
theorem test_witness_LoadPlacesRom :
    State.reset.mem.wf ∧ ∃ short long : List Byte, short.length ≤ 3583 ∧ 3583 < long.length :=
  ⟨Memory.wf_nil, _, _, replicate_fits 3583 3583 (Nat.le_refl _), replicate_too_long 3584 3583 (Nat.lt_succ_self _)⟩
theorem test_witness_StepRunsDecodedInstruction :
    let s := (State.reset.setPc 0xFFD).withFetchWord 16 0x00E0
    s.ticksDue = 0 ∧ s.mode = .running ∧ s.pc.toNat + 1 < Config.memSize ∧ Instr.cls.wellFormed = true ∧
      decode (s.mem.readBytes s.pc.toNat 2) = .ok (.cls, []) := by decide
theorem test_witness_FetchReadsBigEndianWord :
    Config.memSize ≤ (0xFFE : Word).toNat + 1 ∧ (0xFFD : Word).toNat + 1 < Config.memSize := by decide
theorem test_witness_MemoryAccessChecked :
    Memory.wf [(0x300, 0x01)] ∧ Config.memSize ≤ 4095 ∧ 4094 < Config.memSize := by decide
theorem test_witness_StepRaisesFetchError :
    (State.reset.setPc 0xFFE).ticksDue = 0 ∧ (State.reset.setPc 0xFFE).mode = .running ∧ fetch State.reset.mem 0xFFE = .error 0xFFF := by decide
theorem test_witness_StepRaisesDecodeError :
    State.reset.ticksDue = 0 ∧ State.reset.mode = .running ∧ fetch State.reset.mem 0x200 = .ok 0x0000 ∧
      ∀ i, decodeWord 0x0000 ≠ .ok i :=
  ⟨rfl, rfl, rfl, fun i h => by cases h⟩
theorem test_witness_FaultedStaysFaulted :
    (State.reset.faultWith (.decodeError 0x200 0)).mode = .faulted (.decodeError 0x200 0) ∧
      (State.reset.faultWith (.decodeError 0x200 0)).ticksDue = 0 ∧
      ({ State.reset.faultWith (.decodeError 0x200 0) with ticksDue := 1 } : State).ticksDue = 0 + 1 := by decide
theorem test_witness_TickIsOwnTransition :
    ({ State.reset with ticksDue := 1 } : State).ticksDue = 0 + 1 ∧ State.reset.ticksDue = 0 := by decide
theorem test_witness_StepAlwaysAnswers :
    State.reset.ticksDue = 0 ∧ ({ State.reset with ticksDue := 1 } : State).ticksDue ≠ 0 := by decide
theorem test_witness_RaisingStepWritesOnlyMode :
    ∃ t, State.reset.mode = .running ∧ step State.reset = .next t ∧ t.mode = .faulted (.decodeError 0x200 0) :=
  ⟨_, rfl, rfl, rfl⟩
theorem test_witness_WaitStepWritesNothing :
    let s := State.reset.withFetchWord 16 0xF10A
    s.mode = .running ∧ fetchDecode s = .ok (.ldKey 1) ∧ ∀ k : Fin 16, s.keys[k] = false := by decide
theorem test_witness_WaitStepEnds :
    let s := { State.reset.withFetchWord 16 0xF10A with keys := (Vector.replicate 16 false).set 15 true }
    s.mode = .running ∧ fetchDecode s = .ok (.ldKey 1) ∧ ∃ k : Fin 16, s.keys[k] = true := by decide
/-- A state that is not the reset state meets the invariant, and its step answers. -/
theorem test_witness_StepKeepsInvariant :
    ∃ t, ((State.reset.setMem [(0x200, 0x6A), (0x201, 0x42)]).setDt 9).Inv ∧
      step ((State.reset.setMem [(0x200, 0x6A), (0x201, 0x42)]).setDt 9) = .next t :=
  ⟨_, ⟨by decide, rfl, by simp [State.reset]⟩, rfl⟩
theorem test_witness_DisplayWritersOnly :
    ∃ t, exec (.drw 0 1 1) (withSprite [] 0x80) = .next t ∧ t.disp ≠ (withSprite [] 0x80).disp := ⟨_, rfl, by decide⟩
theorem test_witness_IndexWritersOnly :
    ∃ t, exec (.ldIndex 0x300) State.reset = .next t ∧ t.index ≠ State.reset.index := ⟨_, rfl, by decide⟩
theorem test_witness_StackWritersOnly :
    ∃ t, exec (.call 0x300) State.reset = .next t ∧ t.sp ≠ State.reset.sp ∧ t.stack ≠ State.reset.stack :=
  ⟨_, rfl, by decide, by decide⟩
theorem test_witness_TimerWritersOnly :
    ∃ t, exec (.ldToDt 0) (withRegs [(0, 5)]) = .next t ∧ t.dt ≠ (withRegs [(0, 5)]).dt := ⟨_, rfl, by decide⟩
theorem test_witness_RegisterWritersOnly :
    ∃ t, exec (.ldImm 15 5) State.reset = .next t ∧ t.reg 15 ≠ State.reset.reg 15 := ⟨_, rfl, by decide⟩
theorem test_witness_RegisterReadersOnly :
    (∀ r, (Instr.addReg 0 1).readsReg r → ((Vector.replicate 16 0).set 2 7 : Vector Byte 16)[r] = State.reset.reg r) ∧
    (∃ t, exec (.addReg 0 1) State.reset = .next t ∧ t.result = some .ok) ∧
    ¬ (Instr.addReg 0 1).writesReg 2 ∧ (Instr.addReg 0 1).writesReg 15 :=
  ⟨by rintro r (rfl | rfl) <;> rfl, ⟨_, rfl, rfl⟩, by simp [Instr.writesReg, regAndFlag, regF], .inr rfl⟩
theorem test_witness_MemoryWritersOnly :
    ∃ t, exec (.ldBcd 0) (withRegs [(0, 255)]) = .next t ∧ t.mem.read 0x302 ≠ (withRegs [(0, 255)]).mem.read 0x302 :=
  ⟨_, rfl, by decide⟩
theorem test_witness_InputsReadOnlyByTheirInstructions :
    (Instr.rndImm 0 0).readsKeys = false ∧ (Instr.ldKey 0).readsRandom = false := by decide
theorem test_witness_TicksAreRepeatedTicks :
    (State.reset.setDt 3).dt.toNat ≤ 3 ∧ 2 < (State.reset.setDt 3).dt.toNat := by decide
theorem test_witness_DelayTimerOnlyRaisedByWrite :
    ∃ t, step ((withRegs [(0, 5)]).withFetchWord 16 0xF015) = .next t ∧
      ((withRegs [(0, 5)]).withFetchWord 16 0xF015).dt.toNat < t.dt.toNat := ⟨_, rfl, by decide⟩
theorem test_witness_DrwDrawsSprite :
    (2 : Fin 16) = 0 ∨ (withRegs [] 0xFFD).index.toNat + (2 : Fin 16).val ≤ Config.memSize := by decide
theorem test_witness_DrwRaisesOutOfBounds :
    (2 : Fin 16) ≠ 0 ∧ Config.memSize < (withRegs [] 0xFFE).index.toNat + (2 : Fin 16).val := by decide
theorem test_witness_DrwTwiceRestoresDisplay :
    (0 : Reg) ≠ regF ∧ (14 : Reg) ≠ regF ∧ (withRegs [] 0xFFE).index.toNat + (1 : Fin 16).val ≤ Config.memSize := by decide
theorem test_witness_RetPopsOrRaises :
    0 < ({ State.reset with sp := 16 } : State).sp.val ∧ 0 < ({ State.reset with sp := 1 } : State).sp.val ∧
      State.reset.sp.val = 0 := by decide
theorem test_witness_CallPushesOrRaises :
    ({ State.reset with sp := 15 } : State).sp.val < 16 ∧ ({ State.reset with sp := 16 } : State).sp.val = 16 := by decide
theorem test_witness_RetAfterCallReturns : ({ State.reset with sp := 15 } : State).sp.val < 16 := by decide
theorem test_witness_ImmediateSkips :
    (withRegs [(15, 6)]).reg 15 = 6 ∧ (withRegs [(15, 6)]).reg 15 ≠ 7 := by decide
theorem test_witness_RegisterSkip :
    (withRegs [(15, 6)]).reg 15 ≠ (withRegs [(15, 6)]).reg 0 ∧ State.reset.reg 15 = State.reset.reg 0 := by decide
theorem test_witness_flag_writers : (14 : Reg) ≠ regF := by decide
theorem test_witness_BcdStoresDigits :
    (withRegs [] 0xFFC).mem.wf ∧ (withRegs [] 0xFFC).index.toNat + 2 < Config.memSize ∧
      Config.memSize ≤ (withRegs [] 0xFFD).index.toNat + 2 := by decide
theorem test_witness_range_of_registers :
    (withRegs [] 0xFEF).mem.wf ∧ (withRegs [] 0xFEF).index.toNat + (15 : Reg).val < Config.memSize ∧
      Config.memSize ≤ (withRegs [] 0xFF0).index.toNat + (15 : Reg).val := by decide
theorem test_witness_StoredInstructionIsFetched :
    (withRegs [] 0x202).mem.wf ∧ (withRegs [] 0x202).index.toNat + (1 : Reg).val < Config.memSize ∧
      0 + 1 ≤ (1 : Reg).val ∧ ((withRegs [] 0x202).pc + 2).toNat = (withRegs [] 0x202).index.toNat + 0 := by decide
theorem test_witness_KeySkips :
    ({ withRegs [(1, 15)] with keys := (Vector.replicate 16 false).set 15 true } : State).keys[15]? = some true ∧
      (withRegs [(1, 16)]).keys[((withRegs [(1, 16)]).reg 1).toNat]? ≠ some true := by decide
theorem test_witness_KeyWaitStoresLowestKey :
    ((Vector.replicate 16 false).set 15 true)[(15 : Fin 16)] = true ∧
    (∀ j : Fin 16, j < 15 → ((Vector.replicate 16 false).set 15 true)[j] = false) ∧
    ∀ k : Fin 16, State.reset.keys[k] = false := by decide

end Sys2Proof.Tests
end

/-! # Reasoning rules for frames: what each update of the state may leave outside a frame -/

namespace Sys2Proof.Machine

section Frames
variable {R : Reg → Prop} {P : List Part} {B : Nat → Prop} {s u : State}

/-- A write to a register of the frame. -/
theorem Frame.setReg (h : Frame R P B s u) {r : Reg} (hr : R r) (b : Byte) : Frame R P B s (u.setReg r b) :=
  { h with
    reg := fun k hk =>
      have other : k ≠ r := by
        rintro rfl
        exact hk hr
      (u.reg_setReg_ne b other).trans (h.reg k hk) }

/-- A write to all registers at once that keeps those outside the frame. -/
theorem Frame.setRegs (h : Frame R P B s u) {w : Vector Byte 16} (hw : ∀ r, ¬ R r → w[r] = u.reg r) :
    Frame R P B s (u.setRegs w) :=
  { h with reg := fun r hr => (hw r hr).trans (h.reg r hr) }

theorem Frame.setIndex (h : Frame R P B s u) (hP : Part.index ∈ P) (w : Word) : Frame R P B s (u.setIndex w) :=
  { h with index := fun hn => absurd hP hn }

theorem Frame.setDt (h : Frame R P B s u) (hP : Part.delayTimer ∈ P) (b : Byte) : Frame R P B s (u.setDt b) :=
  { h with delayTimer := fun hn => absurd hP hn }

theorem Frame.setDisp (h : Frame R P B s u) (hP : Part.display ∈ P) (d : Display) : Frame R P B s (u.setDisp d) :=
  { h with display := fun hn => absurd hP hn }

theorem Frame.push (h : Frame R P B s u) (hP : Part.callStack ∈ P) (w : Word) (hs : u.sp.val < 16) :
    Frame R P B s (u.push w hs) :=
  { h with callStack := fun hn => absurd hP hn }

theorem Frame.pop (h : Frame R P B s u) (hP : Part.callStack ∈ P) : Frame R P B s u.pop :=
  { h with callStack := fun hn => absurd hP hn }

/-- Stores to a range of bytes of the frame. -/
theorem Frame.writeBytes (h : Frame R P B s u) {a : Nat} {bs : List Byte}
    (hB : ∀ k, bytesFrom a bs.length k → B k) : Frame R P B s (u.setMem (u.mem.writeBytes a bs)) :=
  { h with
    memory := fun k hk =>
      have outside : k < a ∨ a + bs.length ≤ k := by
        have : ¬ (a ≤ k ∧ k < a + bs.length) := fun hin => hk (hB k hin)
        omega
      (u.mem.read_writeBytes_outside bs outside).trans (h.memory k hk) }

theorem Frame.setPc (h : Frame R P B s u) (w : Word) : Frame R P B s (u.setPc w) := { h with }

theorem Frame.advance (h : Frame R P B s u) (n : Word) : Frame R P B s (u.advance n) := h.setPc _

theorem Frame.skipIf (h : Frame R P B s u) (c : Bool) : Frame R P B s (u.skipIf c) := h.advance _

theorem Frame.setResult (h : Frame R P B s u) (r : StepResult) : Frame R P B s (u.setResult r) := { h with }

/-- An error changes the mode and the result alone. -/
theorem frame_faultWith (e : FatalError) : Frame R P B s { s.faultWith e with mode := s.mode } :=
  { frame_refl R P B s with }

end Frames

/-! # The meaning of each instruction that branches, an equation per branch -/

theorem exec_ret_of_pos {s : State} (h : 0 < s.sp.val) : exec .ret s = (s.pop.setPc (s.top h)).complete :=
  dif_pos h

theorem exec_ret_of_zero {s : State} (h : ¬ 0 < s.sp.val) : exec .ret s = s.raiseStack .ret .underflow :=
  dif_neg h

theorem exec_call_of_lt {s : State} (nnn : Addr) (h : s.sp.val < 16) :
    exec (.call nnn) s = ((s.push (s.pc + 2) h).setPc (addrWord nnn)).complete :=
  dif_pos h

theorem exec_call_of_full {s : State} (nnn : Addr) (h : ¬ s.sp.val < 16) :
    exec (.call nnn) s = s.raiseStack (.call nnn) .overflow :=
  dif_neg h

/-- What `Dxyn` draws: the display after, and whether an on pixel was turned off. -/
def State.drawn (s : State) (x y : Reg) (n : Fin 16) : Display × Bool :=
  Display.drawPixels s.disp
    (spritePixels (s.reg x).toNat (s.reg y).toNat (s.mem.readBytes s.dataAddr n.val))

theorem exec_drw_of_inBounds {s : State} (x y : Reg) {n : Fin 16} (h : outOfBounds s.dataAddr n.val = none) :
    exec (.drw x y n) s =
      (((s.setReg regF (boolByte (s.drawn x y n).2)).setDisp (s.drawn x y n).1).advance 2).complete := by
  simp only [exec, execDrw, h, State.drawn]

theorem exec_drw_of_outOfBounds {s : State} (x y : Reg) {n : Fin 16} {a : Nat}
    (h : outOfBounds s.dataAddr n.val = some a) : exec (.drw x y n) s = s.raiseBounds (.drw x y n) a := by
  simp only [exec, execDrw, h]

theorem exec_skp (x : Reg) (s : State) :
    exec (.skp x) s = (s.skipIf (if h : (s.reg x).toNat < 16 then s.keys[(s.reg x).toNat] else false)).complete := by
  simp only [exec, execSkp, keyDown_eq]

theorem exec_sknp (x : Reg) (s : State) :
    exec (.sknp x) s = (s.skipIf (!if h : (s.reg x).toNat < 16 then s.keys[(s.reg x).toNat] else false)).complete := by
  simp only [exec, execSknp, keyDown_eq]

theorem exec_ldKey_of_none {s : State} (x : Reg) (h : keyPick s.keys = none) : exec (.ldKey x) s = .next s.wait := by
  simp only [exec, execLdKey, h]

theorem exec_ldKey_of_some {s : State} (x : Reg) {k : Fin 16} (h : keyPick s.keys = some k) :
    exec (.ldKey x) s = ((s.setReg x (narrow8 k.val)).advance 2).complete := by
  simp only [exec, execLdKey, h, State.complete_eq]

theorem State.storeBytes_of_inBounds {s : State} (i : Instr) {bs : List Byte}
    (h : outOfBounds s.dataAddr bs.length = none) :
    s.storeBytes i bs = ((s.setMem (s.mem.writeBytes s.dataAddr bs)).advance 2).complete := by
  simp only [State.storeBytes, h]

theorem State.storeBytes_of_outOfBounds {s : State} (i : Instr) {bs : List Byte} {a : Nat}
    (h : outOfBounds s.dataAddr bs.length = some a) : s.storeBytes i bs = s.raiseBounds i a := by
  simp only [State.storeBytes, h]

theorem exec_loadRegs_of_inBounds {s : State} {x : Reg} (h : outOfBounds s.dataAddr (x.val + 1) = none) :
    exec (.loadRegs x) s = ((s.setRegs (s.regsFrom x s.dataAddr)).advance 2).complete := by
  simp only [exec, execLoadRegs, h]

theorem exec_loadRegs_of_outOfBounds {s : State} {x : Reg} {a : Nat}
    (h : outOfBounds s.dataAddr (x.val + 1) = some a) : exec (.loadRegs x) s = s.raiseBounds (.loadRegs x) a := by
  simp only [exec, execLoadRegs, h]

end Sys2Proof.Machine

/-! # What every instruction does, and what it leaves unchanged -/

namespace Sys2Proof

open Sys2Proof.Machine

/-- The parts beside the registers, the memory and `pc` that an instruction writes when it completes (R25, R32, R121,
R148). -/
def Instr.writesParts : Instr → List Part
  | .cls => [.display]
  | .drw _ _ _ => [.display]
  | .ret => [.callStack]
  | .call _ => [.callStack]
  | .ldIndex _ => [.index]
  | .addIndex _ => [.index]
  | .ldFont _ => [.index]
  | .ldToDt _ => [.delayTimer]
  | _ => []

theorem Instr.index_mem_writesParts {i : Instr} (h : Part.index ∈ i.writesParts) :
    (∃ nnn, i = .ldIndex nnn) ∨ (∃ x, i = .addIndex x) ∨ ∃ x, i = .ldFont x := by
  cases i <;> simp [Instr.writesParts] at h ⊢

theorem Instr.callStack_mem_writesParts {i : Instr} (h : Part.callStack ∈ i.writesParts) :
    i = .ret ∨ ∃ nnn, i = .call nnn := by
  cases i <;> simp [Instr.writesParts] at h ⊢

theorem Instr.delayTimer_mem_writesParts {i : Instr} (h : Part.delayTimer ∈ i.writesParts) :
    ∃ x, i = .ldToDt x := by
  cases i <;> simp [Instr.writesParts] at h ⊢

end Sys2Proof

namespace Sys2Proof.Machine

/-- The instruction `i` completes in `s` with the next state `u`: it returns `Ok`, changes nothing outside the tables of
what it writes, and keeps the memory's canonical form. -/
structure Completes (i : Instr) (s u : State) : Prop where
  result : u.result = some .ok
  frame : Frame i.writesReg i.writesParts (i.writesByte s) s u
  canonical : s.mem.wf → u.mem.wf

/-- What a meaning may answer: the instruction completes, waits, or raises an error. -/
def Answers (i : Instr) (s : State) (o : Outcome) : Prop :=
  (∃ u, o = .next u ∧ Completes i s u) ∨ o = .next s.wait ∨ ∃ e, o = .next (s.faultWith e)

theorem answers_raise (i : Instr) (s : State) (e : FatalError) : Answers i s (s.raise e) := .inr (.inr ⟨e, rfl⟩)

/-- An instruction that completes and does not write the memory. -/
theorem answers_complete {i : Instr} {s u : State} (h : Frame i.writesReg i.writesParts (i.writesByte s) s u)
    (hm : u.mem = s.mem) : Answers i s u.complete :=
  .inl ⟨_, rfl, rfl, h.setResult .ok, fun hs => hm ▸ hs⟩

/-- A store through `I` to the bytes the table of R58 gives the instruction. -/
theorem answers_storeBytes {i : Instr} {s : State} (j : Instr) {bs : List Byte} (hpos : bs.length ≠ 0)
    (hB : i.writesByte s = bytesFrom s.index.toNat bs.length) : Answers i s (s.storeBytes j bs) := by
  rcases hb : outOfBounds s.dataAddr bs.length with _ | a
  · rw [State.storeBytes_of_inBounds j hb]
    have inside : s.dataAddr + bs.length ≤ Config.memSize :=
      ((outOfBounds_none_iff _ _).mp hb).resolve_left hpos
    have written : ∀ k, bytesFrom s.dataAddr bs.length k → i.writesByte s k := fun _ hk => hB ▸ hk
    exact .inl ⟨_, rfl, rfl, (((frame_refl _ _ _ s).writeBytes written).advance 2).setResult .ok,
      fun hs => Memory.wf_writeBytes bs hs inside⟩
  · rw [State.storeBytes_of_outOfBounds j hb]
    exact answers_raise i s _

/-- Every instruction answers a next state in every state, one of `Answers`. -/
theorem exec_answers (i : Instr) (s : State) : Answers i s (exec i s) := by
  have refl := frame_refl i.writesReg i.writesParts (i.writesByte s) s
  cases i with
  | cls => exact answers_complete ((refl.setDisp (.head _) _).advance 2) rfl
  | ret =>
    by_cases h : 0 < s.sp.val
    · rw [exec_ret_of_pos h]
      exact answers_complete ((refl.pop (.head _)).setPc _) rfl
    · rw [exec_ret_of_zero h]
      exact answers_raise _ s _
  | jp nnn => exact answers_complete (refl.setPc _) rfl
  | call nnn =>
    by_cases h : s.sp.val < 16
    · rw [exec_call_of_lt nnn h]
      exact answers_complete ((refl.push (.head _) _ h).setPc _) rfl
    · rw [exec_call_of_full nnn h]
      exact answers_raise _ s _
  | seImm x kk => exact answers_complete (refl.skipIf _) rfl
  | sneImm x kk => exact answers_complete (refl.skipIf _) rfl
  | ldImm x kk => exact answers_complete ((refl.setReg rfl _).advance 2) rfl
  | addImm x kk => exact answers_complete ((refl.setReg rfl _).advance 2) rfl
  | ldReg x y => exact answers_complete ((refl.setReg rfl _).advance 2) rfl
  | andReg x y => exact answers_complete ((refl.setReg rfl _).advance 2) rfl
  | addReg x y => exact answers_complete (((refl.setReg (.inl rfl) _).setReg (.inr rfl) _).advance 2) rfl
  | subReg x y => exact answers_complete (((refl.setReg (.inl rfl) _).setReg (.inr rfl) _).advance 2) rfl
  | shr x y => exact answers_complete (((refl.setReg (.inr rfl) _).setReg (.inl rfl) _).advance 2) rfl
  | sneReg x y => exact answers_complete (refl.skipIf _) rfl
  | ldIndex nnn => exact answers_complete ((refl.setIndex (.head _) _).advance 2) rfl
  | rndImm x kk => exact answers_complete ((refl.setReg rfl _).advance 2) rfl
  | drw x y n =>
    rcases hb : outOfBounds s.dataAddr n.val with _ | a
    · rw [exec_drw_of_inBounds x y hb]
      exact answers_complete (((refl.setReg rfl _).setDisp (.head _) _).advance 2) rfl
    · rw [exec_drw_of_outOfBounds x y hb]
      exact answers_raise _ s _
  | skp x =>
    rw [exec_skp]
    exact answers_complete (refl.skipIf _) rfl
  | sknp x =>
    rw [exec_sknp]
    exact answers_complete (refl.skipIf _) rfl
  | ldFromDt x => exact answers_complete ((refl.setReg rfl _).advance 2) rfl
  | ldToDt x => exact answers_complete ((refl.setDt (.head _) _).advance 2) rfl
  | ldKey x =>
    rcases hk : keyPick s.keys with _ | k
    · rw [exec_ldKey_of_none x hk]
      exact .inr (.inl rfl)
    · rw [exec_ldKey_of_some x hk]
      exact answers_complete ((refl.setReg rfl _).advance 2) rfl
  | addIndex x => exact answers_complete ((refl.setIndex (.head _) _).advance 2) rfl
  | ldFont x => exact answers_complete ((refl.setIndex (.head _) _).advance 2) rfl
  | ldBcd x => exact answers_storeBytes (.ldBcd x) (by simp) rfl
  | storeRegs x =>
    exact answers_storeBytes (.storeRegs x) (by simp) (by rw [State.regRange_length]; rfl)
  | loadRegs x =>
    rcases hb : outOfBounds s.dataAddr (x.val + 1) with _ | a
    · rw [exec_loadRegs_of_inBounds hb]
      have kept : ∀ r, ¬ regsUpTo x r → (s.regsFrom x s.dataAddr)[r] = s.reg r := fun r hr =>
        (s.reg_setRegs_regsFrom x r s.dataAddr).trans (if_neg hr)
      generalize s.regsFrom x s.dataAddr = w at kept ⊢
      exact answers_complete ((refl.setRegs kept).advance 2) rfl
    · rw [exec_loadRegs_of_outOfBounds hb]
      exact answers_raise _ s _

/-- A next state of an instruction: it completed, or waited, or raised an error. -/
theorem exec_next_cases {i : Instr} {s t : State} (h : exec i s = .next t) :
    Completes i s t ∨ t = s.wait ∨ ∃ e, t = s.faultWith e := by
  have key := exec_answers i s
  rw [h] at key
  rcases key with ⟨u, hu, hc⟩ | hw | ⟨e, he⟩
  · cases hu
    exact .inl hc
  · cases hw
    exact .inr (.inl rfl)
  · cases he
    exact .inr (.inr ⟨e, rfl⟩)

/-- Whether it completes, waits or raises, an instruction changes nothing but the mode outside the tables of what it
writes. -/
theorem exec_frame {i : Instr} {s t : State} (h : exec i s = .next t) :
    Frame i.writesReg i.writesParts (i.writesByte s) s { t with mode := s.mode } := by
  rcases exec_next_cases h with hc | rfl | ⟨e, rfl⟩
  · exact { hc.frame with mode := rfl }
  · exact { frame_refl _ _ _ s with }
  · exact frame_faultWith e

/-- Every instruction keeps the memory's canonical form. -/
theorem exec_keeps_memory_wf {i : Instr} {s t : State} (h : exec i s = .next t) (hs : s.mem.wf) : t.mem.wf := by
  rcases exec_next_cases h with hc | rfl | ⟨e, rfl⟩
  · exact hc.canonical hs
  · exact hs
  · exact hs

/-- The popped entry of `00EE` stays in the array (R31). -/
theorem exec_ret_stack {s t : State} (h : exec .ret s = .next t) : t.stack = s.stack := by
  by_cases hp : 0 < s.sp.val
  · rw [exec_ret_of_pos hp] at h
    cases h
    rfl
  · rw [exec_ret_of_zero hp] at h
    cases h
    rfl

/-! # The invariant -/

@[simp] theorem decrement_zero : decrement 0#8 = 0#8 := by decide

theorem State.Inv.timerTurn {s : State} (h : s.Inv) (n : Nat) : (s.timerTurn n).Inv where
  memory := h.memory
  soundTimer := by rw [State.timerTurn_st, h.soundTimer]; exact decrement_zero
  faulted := h.faulted

/-- Taking in the inputs touches nothing the invariant speaks of. -/
theorem State.Inv.admitHost {s : State} (h : s.Inv) : s.admitHost.Inv :=
  ⟨h.memory, h.soundTimer, h.faulted⟩

/-- Raising keeps the invariant: the mode and the result name the same error. -/
theorem State.Inv.faultWith {s : State} (h : s.Inv) (e : FatalError) : (s.faultWith e).Inv where
  memory := h.memory
  soundTimer := h.soundTimer
  faulted e' := by simp

/-- An instruction executed by a running machine keeps the invariant. -/
theorem State.Inv.exec {s t : State} (h : s.Inv) {i : Instr} (hr : s.mode = .running)
    (ht : Machine.exec i s = .next t) : t.Inv := by
  rcases exec_next_cases ht with hc | rfl | ⟨e, rfl⟩
  · exact
      { memory := hc.canonical h.memory
        soundTimer := hc.frame.soundTimer.trans h.soundTimer
        faulted := fun e => by simp [hc.frame.mode, hr, hc.result] }
  · exact ⟨h.memory, h.soundTimer, fun e => by simp [hr]⟩
  · exact h.faultWith e

/-- Settles O21: each of the four ways a step can go keeps the invariant. -/
theorem stepKeepsInvariant : Obligations.StepKeepsInvariant := by
  intro s t h hst
  rcases step_cases hst with ⟨n, -, rfl⟩ | ⟨-, ⟨e, -, rfl⟩ | ⟨e, -, -, rfl⟩ | ⟨i, hr, -, ht⟩⟩
  · exact h.timerTurn n
  · exact h.admitHost.faultWith e
  · exact h.admitHost.faultWith e
  · exact h.admitHost.exec hr ht

/-! # What an instruction writes -/

/-- Settles O23, from the frame of every instruction. -/
theorem indexWritersOnly : Obligations.IndexWritersOnly := by
  intro i s t h hne
  refine Instr.index_mem_writesParts ?_
  by_contra hmem
  exact hne ((exec_frame h).index hmem)

/-- Settles O24: the frame leaves `00EE` and `2nnn`, and `00EE` writes no entry. -/
theorem stackWritersOnly : Obligations.StackWritersOnly := by
  intro i s t h
  by_cases hmem : Part.callStack ∈ i.writesParts
  · have writer := Instr.callStack_mem_writesParts hmem
    refine ⟨fun _ => writer, fun hne => writer.resolve_left ?_⟩
    rintro rfl
    exact hne (exec_ret_stack h)
  · obtain ⟨hstack, hsp⟩ := (exec_frame h).callStack hmem
    exact ⟨fun hne => absurd hsp hne, fun hne => absurd hstack hne⟩

/-- Settles O25, from the frame of every instruction. -/
theorem timerWritersOnly : Obligations.TimerWritersOnly := by
  intro i s t h
  refine ⟨(exec_frame h).soundTimer, fun hne => Instr.delayTimer_mem_writesParts ?_⟩
  by_contra hmem
  exact hne ((exec_frame h).delayTimer hmem)

/-- Settles O26, from the frame of every instruction. -/
theorem registerWritersOnly : Obligations.RegisterWritersOnly := by
  intro i s t r h hne
  by_contra hr
  exact hne ((exec_frame h).reg r hr)

/-- Settles O31: a tick does not raise `DT`, an error leaves it, and of the instructions `Fx15` alone writes it. -/
theorem delayTimerOnlyRaisedByWrite : Obligations.DelayTimerOnlyRaisedByWrite := by
  intro s t h hlt
  rcases step_cases h with ⟨n, -, rfl⟩ | ⟨hd, ⟨e, -, rfl⟩ | ⟨e, -, -, rfl⟩ | ⟨i, -, hi, ht⟩⟩
  · rw [State.timerTurn_dt, decrement_toNat] at hlt
    omega
  · exact absurd hlt (Nat.lt_irrefl _)
  · exact absurd hlt (Nat.lt_irrefl _)
  · have changed : t.dt ≠ s.admitHost.dt := fun e => by
      rw [e] at hlt
      exact Nat.lt_irrefl _ hlt
    obtain ⟨x, rfl⟩ := (timerWritersOnly i _ t ht).2 changed
    exact ⟨hd, x, hi⟩

/-! # What an instruction reads -/

/-- The state with its keypad sample, random byte and sound timer replaced. -/
def State.mapInputs (f : Vector Bool 16 → Vector Bool 16) (g k : Byte → Byte) (s : State) : State :=
  { s with keys := f s.keys, rnd := g s.rnd, st := k s.st }

section Inputs
variable (f : Vector Bool 16 → Vector Bool 16) (g k : Byte → Byte)

theorem regsFrom_mapInputs (s : State) (x : Reg) :
    (s.mapInputs f g k).regsFrom x (s.mapInputs f g k).dataAddr = s.regsFrom x s.dataAddr := rfl

theorem storeBytes_mapInputs (i : Instr) (s : State) (bs : List Byte) :
    (s.mapInputs f g k).storeBytes i bs = mapNext (State.mapInputs f g k) (s.storeBytes i bs) := by
  rcases hb : outOfBounds s.dataAddr bs.length with _ | a
  · rw [State.storeBytes_of_inBounds i hb, State.storeBytes_of_inBounds (s := s.mapInputs f g k) i hb]
    rfl
  · rw [State.storeBytes_of_outOfBounds i hb, State.storeBytes_of_outOfBounds (s := s.mapInputs f g k) i hb]
    rfl

/-- Executing an instruction commutes with a change of the inputs it does not read, and of the sound timer. -/
theorem exec_mapInputs (i : Instr) (s : State) (hf : i.readsKeys = true → f = id)
    (hg : i.readsRandom = true → g = id) :
    exec i (s.mapInputs f g k) = mapNext (State.mapInputs f g k) (exec i s) := by
  cases i with
  | cls => rfl
  | ret =>
    by_cases h : 0 < s.sp.val
    · rw [exec_ret_of_pos h, exec_ret_of_pos (s := s.mapInputs f g k) h]
      rfl
    · rw [exec_ret_of_zero h, exec_ret_of_zero (s := s.mapInputs f g k) h]
      rfl
  | jp nnn => rfl
  | call nnn =>
    by_cases h : s.sp.val < 16
    · rw [exec_call_of_lt nnn h, exec_call_of_lt (s := s.mapInputs f g k) nnn h]
      rfl
    · rw [exec_call_of_full nnn h, exec_call_of_full (s := s.mapInputs f g k) nnn h]
      rfl
  | seImm x kk => rfl
  | sneImm x kk => rfl
  | ldImm x kk => rfl
  | addImm x kk => rfl
  | ldReg x y => rfl
  | andReg x y => rfl
  | addReg x y => rfl
  | subReg x y => rfl
  | shr x y => rfl
  | sneReg x y => rfl
  | ldIndex nnn => rfl
  | rndImm x kk =>
    obtain rfl := hg rfl
    rfl
  | drw x y n =>
    rcases hb : outOfBounds s.dataAddr n.val with _ | a
    · rw [exec_drw_of_inBounds x y hb, exec_drw_of_inBounds (s := s.mapInputs f g k) x y hb]
      rfl
    · rw [exec_drw_of_outOfBounds x y hb, exec_drw_of_outOfBounds (s := s.mapInputs f g k) x y hb]
      rfl
  | skp x =>
    obtain rfl := hf rfl
    rw [exec_skp, exec_skp]
    rfl
  | sknp x =>
    obtain rfl := hf rfl
    rw [exec_sknp, exec_sknp]
    rfl
  | ldFromDt x => rfl
  | ldToDt x => rfl
  | ldKey x =>
    obtain rfl := hf rfl
    rcases hk : keyPick s.keys with _ | key
    · rw [exec_ldKey_of_none x hk, exec_ldKey_of_none (s := s.mapInputs id g k) x hk]
      rfl
    · rw [exec_ldKey_of_some x hk, exec_ldKey_of_some (s := s.mapInputs id g k) x hk]
      rfl
  | addIndex x => rfl
  | ldFont x => rfl
  | ldBcd x => exact storeBytes_mapInputs f g k _ s _
  | storeRegs x => exact storeBytes_mapInputs f g k _ s _
  | loadRegs x =>
    rcases hb : outOfBounds s.dataAddr (x.val + 1) with _ | a
    · rw [exec_loadRegs_of_inBounds hb, exec_loadRegs_of_inBounds (s := s.mapInputs f g k) hb, regsFrom_mapInputs]
      generalize s.regsFrom x s.dataAddr = w
      rfl
    · rw [exec_loadRegs_of_outOfBounds hb, exec_loadRegs_of_outOfBounds (s := s.mapInputs f g k) hb]
      rfl

end Inputs

/-- Settles O29: each clause changes one input and keeps the others. -/
theorem inputsReadOnlyByTheirInstructions : Obligations.InputsReadOnlyByTheirInstructions := by
  intro i s keys rnd st
  refine ⟨fun hk => ?_, fun hr => ?_, ?_⟩
  · exact exec_mapInputs (fun _ => keys) id id i s (fun h => by simp [hk] at h) fun _ => rfl
  · exact exec_mapInputs id (fun _ => rnd) id i s (fun _ => rfl) fun h => by simp [hr] at h
  · exact exec_mapInputs id id (fun _ => st) i s (fun _ => rfl) fun _ => rfl

/-! ## The registers an instruction reads -/

/-- The outcomes of one instruction in two states that differ in registers it does not read: the second has a next state
where the first has, the two agree outside the registers, and on the registers of `R` when the instruction completes. -/
def AgreesOn (R : Reg → Prop) (o o' : Outcome) : Prop :=
  ∀ t, o = .next t →
    ∃ u, o' = .next u ∧ u.setRegs t.v = t ∧ (t.result = some .ok → ∀ r, R r → u.reg r = t.reg r)

section Readers
variable {R : Reg → Prop}

theorem agreesOn_next {t u : State} (hu : u.setRegs t.v = t)
    (hR : t.result = some .ok → ∀ r, R r → u.reg r = t.reg r) :
    AgreesOn R (.next t) (.next u) := by
  intro t' h
  cases h
  exact ⟨u, rfl, hu, hR⟩

/-- The second next state is the first with other registers. -/
theorem agreesOn_setRegs {t : State} {w : Vector Byte 16}
    (hR : t.result = some .ok → ∀ r, R r → w[r] = t.reg r) :
    AgreesOn R (.next t) (.next (t.setRegs w)) :=
  agreesOn_next rfl hR

/-- An instruction that writes no register. -/
theorem agreesOn_noReg (t : State) (w : Vector Byte 16) : AgreesOn noReg (.next t) (.next (t.setRegs w)) :=
  agreesOn_setRegs fun _ _ hr => hr.elim

/-- A wait or an error: the instruction does not complete. -/
theorem agreesOn_of_result_ne_ok {t : State} (w : Vector Byte 16) (h : t.result ≠ some .ok) :
    AgreesOn R (.next t) (.next (t.setRegs w)) :=
  agreesOn_setRegs fun hok => absurd hok h

theorem agreesOn_raise (s : State) (w : Vector Byte 16) (e : FatalError) :
    AgreesOn R (s.raise e) ((s.setRegs w).raise e) :=
  agreesOn_of_result_ne_ok (t := s.faultWith e) w (by simp)

/-- One register written with the same value. -/
theorem agreesOn_setReg (s : State) (w : Vector Byte 16) (x : Reg) (b : Byte) :
    AgreesOn (onlyReg x) ((s.setReg x b).advance 2).complete (((s.setRegs w).setReg x b).advance 2).complete := by
  refine agreesOn_next rfl fun _ r hr => ?_
  obtain rfl : r = x := hr
  simp

/-- Two registers written with the same values, in the same order. -/
theorem agreesOn_setReg_setReg (s : State) (w : Vector Byte 16) {x y : Reg} (hR : ∀ r, R r → r = y ∨ r = x)
    (b c : Byte) :
    AgreesOn R (((s.setReg x b).setReg y c).advance 2).complete
      ((((s.setRegs w).setReg x b).setReg y c).advance 2).complete := by
  refine agreesOn_next rfl fun _ r hr => ?_
  rcases hR r hr with rfl | rfl
  · simp
  · simp [State.reg_setReg]

/-- All registers written, those of `R` with the same values. -/
theorem agreesOn_setRegs_advance (s : State) (w : Vector Byte 16) {v v' : Vector Byte 16}
    (hR : ∀ r, R r → v'[r] = v[r]) :
    AgreesOn R ((s.setRegs v).advance 2).complete (((s.setRegs w).setRegs v').advance 2).complete :=
  agreesOn_next rfl fun _ => hR

/-- A store through `I` of the same bytes. -/
theorem agreesOn_storeBytes (s : State) (w : Vector Byte 16) (i : Instr) (bs : List Byte) :
    AgreesOn noReg (s.storeBytes i bs) ((s.setRegs w).storeBytes i bs) := by
  rcases hb : outOfBounds s.dataAddr bs.length with _ | a
  · rw [State.storeBytes_of_inBounds i hb, State.storeBytes_of_inBounds (s := s.setRegs w) i hb]
    exact agreesOn_noReg _ w
  · rw [State.storeBytes_of_outOfBounds i hb, State.storeBytes_of_outOfBounds (s := s.setRegs w) i hb]
    exact agreesOn_raise s w _

theorem State.regRange_setRegs {s : State} {w : Vector Byte 16} {x : Reg}
    (h : ∀ r, r ≤ x → (s.setRegs w).reg r = s.reg r) : (s.setRegs w).regRange x = s.regRange x := by
  refine List.ext_getElem (by simp) fun k hk hk' => ?_
  rw [State.regRange_get, State.regRange_get]
  rw [State.regRange_length] at hk
  exact h _ (Nat.le_of_lt_succ hk)

theorem State.drawn_setRegs {s : State} {w : Vector Byte 16} {x y : Reg} (hx : (s.setRegs w).reg x = s.reg x)
    (hy : (s.setRegs w).reg y = s.reg y) (n : Fin 16) : (s.setRegs w).drawn x y n = s.drawn x y n := by
  simp only [State.drawn, hx, hy, State.setRegs_disp, State.setRegs_mem, State.setRegs_dataAddr]

/-- With registers changed that an instruction does not read, it does the same to the registers it writes and to
everything else. -/
theorem exec_agreesOn (i : Instr) (s : State) (w : Vector Byte 16)
    (h : ∀ r, i.readsReg r → (s.setRegs w).reg r = s.reg r) :
    AgreesOn i.writesReg (exec i s) (exec i (s.setRegs w)) := by
  cases i with
  | cls => exact agreesOn_noReg _ w
  | ret =>
    by_cases hp : 0 < s.sp.val
    · rw [exec_ret_of_pos hp, exec_ret_of_pos (s := s.setRegs w) hp]
      exact agreesOn_noReg _ w
    · rw [exec_ret_of_zero hp, exec_ret_of_zero (s := s.setRegs w) hp]
      exact agreesOn_raise s w _
  | jp nnn => exact agreesOn_noReg _ w
  | call nnn =>
    by_cases hp : s.sp.val < 16
    · rw [exec_call_of_lt nnn hp, exec_call_of_lt (s := s.setRegs w) nnn hp]
      exact agreesOn_noReg _ w
    · rw [exec_call_of_full nnn hp, exec_call_of_full (s := s.setRegs w) nnn hp]
      exact agreesOn_raise s w _
  | seImm x kk =>
    simp only [exec, execSeImm, h x rfl]
    exact agreesOn_noReg _ w
  | sneImm x kk =>
    simp only [exec, execSneImm, h x rfl]
    exact agreesOn_noReg _ w
  | ldImm x kk => exact agreesOn_setReg s w x kk
  | addImm x kk =>
    simp only [exec, execAddImm, h x rfl]
    exact agreesOn_setReg s w x _
  | ldReg x y =>
    simp only [exec, execLdReg, h y rfl]
    exact agreesOn_setReg s w x _
  | andReg x y =>
    simp only [exec, execAndReg, h x (.inl rfl), h y (.inr rfl)]
    exact agreesOn_setReg s w x _
  | addReg x y =>
    simp only [exec, execAddReg, h x (.inl rfl), h y (.inr rfl)]
    exact agreesOn_setReg_setReg s w (fun _ => Or.symm) _ _
  | subReg x y =>
    simp only [exec, execSubReg, h x (.inl rfl), h y (.inr rfl)]
    exact agreesOn_setReg_setReg s w (fun _ => Or.symm) _ _
  | shr x y =>
    simp only [exec, execShr, h x rfl]
    exact agreesOn_setReg_setReg s w (fun _ => id) _ _
  | sneReg x y =>
    simp only [exec, execSneReg, h x (.inl rfl), h y (.inr rfl)]
    exact agreesOn_noReg _ w
  | ldIndex nnn => exact agreesOn_noReg _ w
  | rndImm x kk => exact agreesOn_setReg s w x _
  | drw x y n =>
    rcases hb : outOfBounds s.dataAddr n.val with _ | a
    · rw [exec_drw_of_inBounds x y hb, exec_drw_of_inBounds (s := s.setRegs w) x y hb,
        State.drawn_setRegs (h x (.inl rfl)) (h y (.inr rfl))]
      refine agreesOn_next rfl fun _ r hr => ?_
      obtain rfl : r = regF := hr
      simp
    · rw [exec_drw_of_outOfBounds x y hb, exec_drw_of_outOfBounds (s := s.setRegs w) x y hb]
      exact agreesOn_raise s w _
  | skp x =>
    simp only [exec_skp, h x rfl]
    exact agreesOn_noReg _ w
  | sknp x =>
    simp only [exec_sknp, h x rfl]
    exact agreesOn_noReg _ w
  | ldFromDt x => exact agreesOn_setReg s w x _
  | ldToDt x =>
    simp only [exec, execLdToDt, h x rfl]
    exact agreesOn_noReg _ w
  | ldKey x =>
    rcases hk : keyPick s.keys with _ | k
    · rw [exec_ldKey_of_none x hk, exec_ldKey_of_none (s := s.setRegs w) x hk]
      exact agreesOn_of_result_ne_ok w (by simp)
    · rw [exec_ldKey_of_some x hk, exec_ldKey_of_some (s := s.setRegs w) x hk]
      exact agreesOn_setReg s w x _
  | addIndex x =>
    simp only [exec, execAddIndex, h x rfl]
    exact agreesOn_noReg _ w
  | ldFont x =>
    simp only [exec, execLdFont, h x rfl]
    exact agreesOn_noReg _ w
  | ldBcd x =>
    simp only [exec, execLdBcd, h x rfl]
    exact agreesOn_storeBytes s w _ _
  | storeRegs x =>
    simp only [exec, execStoreRegs, State.regRange_setRegs h]
    exact agreesOn_storeBytes s w _ _
  | loadRegs x =>
    rcases hb : outOfBounds s.dataAddr (x.val + 1) with _ | a
    · rw [exec_loadRegs_of_inBounds hb, exec_loadRegs_of_inBounds (s := s.setRegs w) hb]
      refine agreesOn_setRegs_advance s w fun r hr => ?_
      have le : r ≤ x := hr
      simp [State.regsFrom, le]
    · rw [exec_loadRegs_of_outOfBounds hb, exec_loadRegs_of_outOfBounds (s := s.setRegs w) hb]
      exact agreesOn_raise s w _

end Readers

/-- Settles O27: the outcomes agree, and that the second leaves the registers it does not write is O26 of it. -/
theorem registerReadersOnly : Obligations.RegisterReadersOnly := by
  intro i s t w hw ht
  obtain ⟨u, hu, hrest, hwritten⟩ := exec_agreesOn i s w hw t ht
  refine ⟨u, hu, hrest, fun r hr => ?_, hwritten⟩
  by_contra hne
  exact hr (registerWritersOnly i _ u r hu hne)

/-! # What the host reads -/

/-- The view is the rows of the display one after the other. -/
theorem State.view_eq_flatten (s : State) : s.view = s.disp.flatten.toList := by
  show (s.disp.toArray.toList.map Vector.toList).flatten = (s.disp.toArray.map Vector.toArray).flatten.toList
  rw [Array.toList_flatten, Array.toList_map, List.map_map]
  rfl

/-- Cell `(x, y)` stands at `y * 64 + x` in the view (R120). -/
theorem State.view_getElem? (s : State) (x : Fin 64) (y : Fin 32) :
    s.view[y.val * 64 + x.val]? = some (s.pixel x y) := by
  have row : (y.val * 64 + x.val) / 64 = y.val := by omega
  have column : (y.val * 64 + x.val) % 64 = x.val := by omega
  have inside : y.val * 64 + x.val < 32 * 64 := by omega
  rw [State.view_eq_flatten, Vector.getElem?_toList, Vector.getElem?_eq_getElem inside, Vector.getElem_flatten]
  simp only [row, column]
  rfl

/-- Settles O36, field by field of the introspection surface. -/
theorem viewsShowTheState : Obligations.ViewsShowTheState := by
  intro s
  refine ⟨?_, s.view_getElem?, ?_, fun a ha => ?_, Vector.length_toList, fun r => ?_, rfl, rfl,
    Vector.length_toList, fun j => ?_, rfl, rfl, rfl⟩
  · rw [State.view_eq_flatten, Vector.length_toList]
  · simp [State.introspect]
  · simp [State.introspect, Memory.readBytes, ha]
  · simp [State.introspect, State.reg]
  · simp [State.introspect]

end Sys2Proof.Machine

/-! # Memory access and fetching (20_memory.md) -/

namespace Sys2Proof.Machine

/-! ## One byte, checked (R53, R54) -/

theorem outOfBounds_one_of_ge {a : Nat} (h : Config.memSize ≤ a) : outOfBounds a 1 = some a := by
  rw [outOfBounds_of_gt Nat.one_ne_zero (Nat.lt_succ_of_le h), Nat.max_eq_left h]

theorem memRead_of_lt (m : Memory) {a : Nat} (h : a < Config.memSize) : memRead m a = .ok (m.read a) := by
  rw [memRead, outOfBounds_of_le h]

theorem memRead_of_ge (m : Memory) {a : Nat} (h : Config.memSize ≤ a) : memRead m a = .error a := by
  rw [memRead, outOfBounds_one_of_ge h]

theorem memWrite_of_lt (m : Memory) {a : Nat} (v : Byte) (h : a < Config.memSize) :
    memWrite m a v = .ok (m.write a v) := by
  rw [memWrite, outOfBounds_of_le h]

theorem memWrite_of_ge (m : Memory) {a : Nat} (v : Byte) (h : Config.memSize ≤ a) : memWrite m a v = .error a := by
  rw [memWrite, outOfBounds_one_of_ge h]

/-- A checked read depends on the memory through the byte at its address alone. -/
theorem memRead_congr {m m' : Memory} {a : Nat} (h : m.read a = m'.read a) : memRead m a = memRead m' a := by
  rw [memRead, memRead, h]

/-- Settles O14, by whether the address is inside the image. -/
theorem memoryAccessChecked : Obligations.MemoryAccessChecked := by
  intro m a v hm
  refine ⟨fun outside => ⟨memRead_of_ge m outside, memWrite_of_ge m v outside⟩, fun inside =>
    ⟨memRead_of_lt m inside, m.write a v, memWrite_of_lt m v inside, Memory.wf_write v hm inside, ?_, fun k hk => ?_⟩⟩
  · rw [memRead_of_lt _ inside, Memory.read_write_same m v a hm]
  · exact memRead_congr (Memory.read_write_ne m v hk)

/-! ## Who writes memory (R58) -/

/-- Settles O28, from the frame of every instruction. -/
theorem memoryWritersOnly : Obligations.MemoryWritersOnly := by
  intro i s t a h hne
  by_contra ha
  exact hne ((exec_frame h).memory a ha)

/-! ## Fetching (R55, R56, R66) -/

/-- The opcode's high byte is the one at the lower address. -/
theorem concatBytes_toNat (h l : Byte) : (concatBytes h l).toNat = h.toNat * 256 + l.toNat := by
  rw [concatBytes, BitVec.toNat_append, ← Nat.shiftLeft_add_eq_or_of_lt l.isLt, Nat.shiftLeft_eq]

/-- Settles O13: a failing fetch reports the larger of `pc` and `MEM_SIZE`, which is the first address outside. -/
theorem fetchReadsBigEndianWord : Obligations.FetchReadsBigEndianWord := by
  intro m pc
  refine ⟨fun outside => ?_, fun inside => ⟨_, fetch_of_le inside, concatBytes_toNat _ _⟩, rfl⟩
  rw [fetch_of_gt (Nat.lt_succ_of_le outside)]
  split
  · next hpc => rw [Nat.max_eq_left hpc]
  · next hpc => rw [show max pc.toNat Config.memSize = pc.toNat + 1 by omega]

theorem State.regRange_fits {s : State} {x : Reg} (h : s.index.toNat + x.val < Config.memSize) :
    s.dataAddr + (s.regRange x).length ≤ Config.memSize := by
  rw [State.regRange_length]
  exact h

theorem exec_storeRegs_of_lt {s : State} {x : Reg} (h : s.index.toNat + x.val < Config.memSize) :
    exec (.storeRegs x) s = ((s.setMem (s.mem.writeBytes s.dataAddr (s.regRange x))).advance 2).complete :=
  State.storeBytes_of_inBounds _ (outOfBounds_of_le (State.regRange_fits h))

/-- After the store of `V0..=Vx` at `I`, the byte at `I + k` is `Vk`. -/
theorem State.read_writeBytes_regRange {s : State} {x : Reg} (hm : s.mem.wf)
    (h : s.index.toNat + x.val < Config.memSize) {k : Nat} (hk : k ≤ x.val) :
    (s.mem.writeBytes s.dataAddr (s.regRange x)).read (s.index.toNat + k) = s.reg (Fin.ofNat 16 k) := by
  have stored : k < (s.regRange x).length := by
    rw [State.regRange_length]
    exact Nat.lt_succ_of_le hk
  have number : Fin.ofNat 16 k = ⟨k, Nat.lt_of_le_of_lt hk x.isLt⟩ :=
    Fin.ext (Nat.mod_eq_of_lt (Nat.lt_of_le_of_lt hk x.isLt))
  rw [number, ← s.regRange_get x k stored]
  exact Memory.read_writeBytes_inside hm (State.regRange_fits h) k stored

/-- Settles O56: the next fetch is in bounds, and its two bytes are among those just stored. -/
theorem storedInstructionIsFetched : Obligations.StoredInstructionIsFetched := by
  intro s x k hm hI hk hpc
  refine ⟨_, exec_storeRegs_of_lt hI, ?_⟩
  have high := State.read_writeBytes_regRange hm hI (Nat.le_of_succ_le hk)
  have low := State.read_writeBytes_regRange hm hI hk
  rw [← hpc] at high
  rw [← Nat.add_assoc, ← hpc] at low
  rw [← high, ← low]
  exact fetch_of_le (by simp only [State.setResult_pc, State.advance_pc, State.setMem_pc]; omega)

end Sys2Proof.Machine

namespace Sys2Proof

open Sys2Proof.Machine

/-! # The decoder and the encoder -/

/-! ## Decoding an instruction's word (R72, R77) -/

/-- The decoder reads every instruction back from its word: the family, then the low bits that select the row. -/
@[simp] theorem decodeWord_encode (i : Instr) : decodeWord (encode i) = .ok i := by
  cases i with
  | cls | ret => rfl
  | jp | call | seImm | sneImm | ldImm | addImm | ldIndex | rndImm | drw => simp [encode, decodeWord]
  | ldReg | andReg | addReg | subReg | shr => simp [encode, decodeWord, decodeFamily8]
  | sneReg => simp [encode, decodeWord, decodeFamily9]
  | skp | sknp => simp [encode, decodeWord, decodeFamilyE]
  | ldFromDt | ldToDt | ldKey | addIndex | ldFont | ldBcd | storeRegs | loadRegs =>
    simp [encode, decodeWord, decodeFamilyF]

theorem encode_injective : Function.Injective encode := fun i j h =>
  Except.ok.inj (by rw [← decodeWord_encode i, h, decodeWord_encode])

theorem decode_encodeBytes_append (i : Instr) (rest : List Byte) :
    decode (encodeBytes i ++ rest) = .ok (i, rest) := by
  simp [encodeBytes, decode]

/-- Settles O1, by the fields of each instruction's word. -/
theorem decodeOfEncode : Obligations.DecodeOfEncode := fun i rest _ =>
  ⟨decodeWord_encode i, decode_encodeBytes_append i rest⟩

/-! ## Encoding what a word decodes to -/

theorem wordNnn_of_family {op : Word} {a : BitVec 4} (ha : (opA op).toNat = a.toNat) :
    wordNnn a (opNnn op) = op := by
  rw [← BitVec.eq_of_toNat_eq ha, wordNnn_fields]

theorem wordXKk_of_family {op : Word} {a : BitVec 4} (ha : (opA op).toNat = a.toNat) :
    wordXKk a (opX op) (opKk op) = op := by
  rw [← BitVec.eq_of_toNat_eq ha, wordXKk_fields]

theorem wordXKk_of_lowByte {op : Word} {a : BitVec 4} {kk : Byte} (ha : (opA op).toNat = a.toNat)
    (hk : (opKk op).toNat = kk.toNat) : wordXKk a (opX op) kk = op := by
  rw [← BitVec.eq_of_toNat_eq hk, wordXKk_of_family ha]

theorem wordXYD_of_lowNibble {op : Word} {a d : BitVec 4} (ha : (opA op).toNat = a.toNat)
    (hd : (opD op).toNat = d.toNat) : wordXYD a (opX op) (opY op) d = op := by
  rw [← BitVec.eq_of_toNat_eq ha, ← BitVec.eq_of_toNat_eq hd, wordXYD_fields]

/-- What a decoder may answer on `op`: an instruction whose word is `op`, or a failure that carries `op` (R77). -/
def DecodesExactly (op : Word) (r : Except DecodeFailure Instr) : Prop :=
  (∃ i, r = .ok i ∧ encode i = op) ∨ r = .error (.noRow op)

theorem decodesExactly_ok {op : Word} {i : Instr} (h : encode i = op) : DecodesExactly op (.ok i) := .inl ⟨i, rfl, h⟩

theorem decodesExactly_noRow (op : Word) : DecodesExactly op (.error (.noRow op)) := .inr rfl

theorem decodeFamily0_exact (op : Word) : DecodesExactly op (decodeFamily0 op) := by
  unfold decodeFamily0
  split
  · next h => exact decodesExactly_ok h.symm
  · split
    · next h => exact decodesExactly_ok h.symm
    · exact decodesExactly_noRow op

theorem decodeFamily8_exact {op : Word} (ha : (opA op).toNat = 0x8) : DecodesExactly op (decodeFamily8 op) := by
  unfold decodeFamily8
  split
  iterate 5 next hd => exact decodesExactly_ok (wordXYD_of_lowNibble ha hd)
  · exact decodesExactly_noRow op

theorem decodeFamily9_exact {op : Word} (ha : (opA op).toNat = 0x9) : DecodesExactly op (decodeFamily9 op) := by
  unfold decodeFamily9
  split
  · next hd => exact decodesExactly_ok (wordXYD_of_lowNibble ha hd)
  · exact decodesExactly_noRow op

theorem decodeFamilyE_exact {op : Word} (ha : (opA op).toNat = 0xE) : DecodesExactly op (decodeFamilyE op) := by
  unfold decodeFamilyE
  split
  iterate 2 next hk => exact decodesExactly_ok (wordXKk_of_lowByte ha hk)
  · exact decodesExactly_noRow op

theorem decodeFamilyF_exact {op : Word} (ha : (opA op).toNat = 0xF) : DecodesExactly op (decodeFamilyF op) := by
  unfold decodeFamilyF
  split
  iterate 8 next hk => exact decodesExactly_ok (wordXKk_of_lowByte ha hk)
  · exact decodesExactly_noRow op

/-- Decoding is total and drops no bit, by the family and, in the families with sub-opcodes, by the family's decoder. -/
theorem decodeWord_exact (op : Word) : DecodesExactly op (decodeWord op) := by
  unfold decodeWord
  split
  · exact decodeFamily0_exact op
  · next ha => exact decodesExactly_ok (wordNnn_of_family ha)
  · next ha => exact decodesExactly_ok (wordNnn_of_family ha)
  · next ha => exact decodesExactly_ok (wordXKk_of_family ha)
  · next ha => exact decodesExactly_ok (wordXKk_of_family ha)
  · next ha => exact decodesExactly_ok (wordXKk_of_family ha)
  · next ha => exact decodesExactly_ok (wordXKk_of_family ha)
  · next ha => exact decodeFamily8_exact ha
  · next ha => exact decodeFamily9_exact ha
  · next ha => exact decodesExactly_ok (wordNnn_of_family ha)
  · next ha => exact decodesExactly_ok (wordXKk_of_family ha)
  · next ha => exact decodesExactly_ok (wordXYD_of_lowNibble ha rfl)
  · next ha => exact decodeFamilyE_exact ha
  · next ha => exact decodeFamilyF_exact ha
  · exact decodesExactly_noRow op

/-- The decoder and the encoder are inverse to each other. -/
theorem decodeWord_ok_iff (op : Word) (i : Instr) : decodeWord op = .ok i ↔ encode i = op := by
  refine ⟨fun h => ?_, fun h => h ▸ decodeWord_encode i⟩
  obtain ⟨j, hj, hop⟩ | he := decodeWord_exact op
  · rw [Except.ok.inj (h.symm.trans hj), hop]
  · cases h.symm.trans he

theorem decodeWord_of_undecodable {op : Word} (h : ¬ ∃ i, decodeWord op = .ok i) : decodeWord op = .error (.noRow op) :=
  (decodeWord_exact op).resolve_left fun ⟨i, hi, _⟩ => h ⟨i, hi⟩

/-- Settles O2, by the family of the word. -/
theorem encodeOfDecode : Obligations.EncodeOfDecode := fun op i => (decodeWord_ok_iff op i).mp

/-! ## The words of a row of the opcode map (R78) -/

/-- The instruction of the same row as `i` whose operands are the fields of `op` (R71, R72). -/
def Instr.withFieldsOf : Instr → Word → Instr
  | .cls, _ => .cls
  | .ret, _ => .ret
  | .jp _, op => .jp (opNnn op)
  | .call _, op => .call (opNnn op)
  | .seImm _ _, op => .seImm (opX op) (opKk op)
  | .sneImm _ _, op => .sneImm (opX op) (opKk op)
  | .ldImm _ _, op => .ldImm (opX op) (opKk op)
  | .addImm _ _, op => .addImm (opX op) (opKk op)
  | .ldReg _ _, op => .ldReg (opX op) (opY op)
  | .andReg _ _, op => .andReg (opX op) (opY op)
  | .addReg _ _, op => .addReg (opX op) (opY op)
  | .subReg _ _, op => .subReg (opX op) (opY op)
  | .shr _ _, op => .shr (opX op) (opY op)
  | .sneReg _ _, op => .sneReg (opX op) (opY op)
  | .ldIndex _, op => .ldIndex (opNnn op)
  | .rndImm _ _, op => .rndImm (opX op) (opKk op)
  | .drw _ _ _, op => .drw (opX op) (opY op) (opN op)
  | .skp _, op => .skp (opX op)
  | .sknp _, op => .sknp (opX op)
  | .ldFromDt _, op => .ldFromDt (opX op)
  | .ldToDt _, op => .ldToDt (opX op)
  | .ldKey _, op => .ldKey (opX op)
  | .addIndex _, op => .addIndex (opX op)
  | .ldFont _, op => .ldFont (opX op)
  | .ldBcd _, op => .ldBcd (opX op)
  | .storeRegs _, op => .storeRegs (opX op)
  | .loadRegs _, op => .loadRegs (opX op)

@[simp] theorem Instr.row_withFieldsOf (i : Instr) (op : Word) : (i.withFieldsOf op).row = i.row := by
  cases i <;> rfl

theorem eq_of_masked_whole {op w : Word} (h : op &&& 0xFFFF = w) : w = op :=
  h.symm.trans BitVec.and_allOnes

theorem wordNnn_of_masked {op : Word} {a : BitVec 4} (h : op &&& 0xF000 = a ++ 0#12) : wordNnn a (opNnn op) = op := by
  have ha : opA op = a := (opA_of_masked h).trans (opA_wordNnn a 0#12)
  rw [← ha, wordNnn_fields]

theorem wordXKk_of_masked {op : Word} {a : BitVec 4} (h : op &&& 0xF000 = a ++ 0#12) :
    wordXKk a (opX op) (opKk op) = op := by
  rw [wordXKk, opX_append_opKk]
  exact wordNnn_of_masked h

theorem wordXYD_of_masked {op : Word} {a : BitVec 4} (h : op &&& 0xF000 = a ++ 0#12) :
    wordXYD a (opX op) (opY op) (opD op) = op := by
  rw [wordXYD, opY_append_opD]
  exact wordXKk_of_masked h

theorem wordXKk_of_masked_lowByte {op : Word} {a : BitVec 4} {kk : Byte} (h : op &&& 0xF0FF = a ++ (0#4 ++ kk)) :
    wordXKk a (opX op) kk = op := by
  obtain ⟨ha, hk⟩ : opA op = opA (wordXKk a 0 kk) ∧ opKk op = opKk (wordXKk a 0 kk) := fields_of_masked_lowByte h
  rw [opA_wordXKk] at ha
  rw [opKk_wordXKk] at hk
  rw [← ha, ← hk, wordXKk_fields]

theorem wordXYD_of_masked_lowNibble {op : Word} {a d : BitVec 4} (h : op &&& 0xF00F = a ++ (0#4 ++ (0#4 ++ d))) :
    wordXYD a (opX op) (opY op) d = op := by
  obtain ⟨ha, hd⟩ : opA op = opA (wordXYD a 0 0 d) ∧ opD op = opD (wordXYD a 0 0 d) := fields_of_masked_lowNibble h
  rw [opA_wordXYD] at ha
  rw [opD_wordXYD] at hd
  rw [← ha, ← hd, wordXYD_fields]

/-- A word that belongs to the row of `i` is the word of the instruction of that row with its fields. -/
theorem encode_withFieldsOf {i : Instr} {op : Word} (h : op &&& i.row.mask = i.row.value) :
    encode (i.withFieldsOf op) = op := by
  cases i with
  | cls | ret => exact eq_of_masked_whole h
  | jp | call | ldIndex => exact wordNnn_of_masked h
  | seImm | sneImm | ldImm | addImm | rndImm => exact wordXKk_of_masked h
  | drw => exact wordXYD_of_masked h
  | ldReg | andReg | addReg | subReg | shr | sneReg => exact wordXYD_of_masked_lowNibble h
  | skp | sknp | ldFromDt | ldToDt | ldKey | addIndex | ldFont | ldBcd | storeRegs | loadRegs =>
    exact wordXKk_of_masked_lowByte h

/-- Every word of an instruction's row decodes to the instruction of that row with the word's fields. -/
theorem rowDecodes (i : Instr) : RowDecodes i.row.value i.row.mask i.withFieldsOf := fun op h =>
  (decodeWord_ok_iff op _).mpr (encode_withFieldsOf h)

theorem mem_opcodeMap_iff (r : Row) : r ∈ opcodeMap ↔ ∃ i : Instr, i.row = r := by
  constructor
  · intro h
    obtain ⟨i, -, hi⟩ := List.mem_map.mp h
    exact ⟨i, hi⟩
  · rintro ⟨i, rfl⟩
    exact Laws.row_mem_opcodeMap i

theorem Row.covers_iff (r : Row) (op : Word) : r.covers op = true ↔ op &&& r.mask = r.value := decide_eq_true_iff

/-- Every instruction's word belongs to the instruction's own row, a row of R78. -/
theorem ownRow : ∀ i : Instr, Laws.OwnRow.Statement i
  | .cls => Laws.OwnRow.cls
  | .ret => Laws.OwnRow.ret
  | .jp nnn => Laws.OwnRow.jp nnn
  | .call nnn => Laws.OwnRow.call nnn
  | .seImm x kk => Laws.OwnRow.seImm x kk
  | .sneImm x kk => Laws.OwnRow.sneImm x kk
  | .ldImm x kk => Laws.OwnRow.ldImm x kk
  | .addImm x kk => Laws.OwnRow.addImm x kk
  | .ldReg x y => Laws.OwnRow.ldReg x y
  | .andReg x y => Laws.OwnRow.andReg x y
  | .addReg x y => Laws.OwnRow.addReg x y
  | .subReg x y => Laws.OwnRow.subReg x y
  | .shr x y => Laws.OwnRow.shr x y
  | .sneReg x y => Laws.OwnRow.sneReg x y
  | .ldIndex nnn => Laws.OwnRow.ldIndex nnn
  | .rndImm x kk => Laws.OwnRow.rndImm x kk
  | .drw x y n => Laws.OwnRow.drw x y n
  | .skp x => Laws.OwnRow.skp x
  | .sknp x => Laws.OwnRow.sknp x
  | .ldFromDt x => Laws.OwnRow.ldFromDt x
  | .ldToDt x => Laws.OwnRow.ldToDt x
  | .ldKey x => Laws.OwnRow.ldKey x
  | .addIndex x => Laws.OwnRow.addIndex x
  | .ldFont x => Laws.OwnRow.ldFont x
  | .ldBcd x => Laws.OwnRow.ldBcd x
  | .storeRegs x => Laws.OwnRow.storeRegs x
  | .loadRegs x => Laws.OwnRow.loadRegs x

theorem row_covers_encode (i : Instr) : i.row.covers (encode i) = true := by
  obtain ⟨-, -, covered⟩ := ownRow i
  exact covered

/-- The words of a row of the opcode map are the words of the row's instructions. -/
theorem covers_iff_exists_encode {r : Row} (hr : r ∈ opcodeMap) (op : Word) :
    r.covers op = true ↔ ∃ i : Instr, i.row = r ∧ encode i = op := by
  constructor
  · obtain ⟨i, rfl⟩ := (mem_opcodeMap_iff r).mp hr
    intro h
    exact ⟨i.withFieldsOf op, i.row_withFieldsOf op, encode_withFieldsOf ((Row.covers_iff _ _).mp h)⟩
  · rintro ⟨i, rfl, rfl⟩
    exact row_covers_encode i

/-- A word belongs to the row of the instruction it is the word of, and to no other. -/
theorem covers_encode_iff {r : Row} (hr : r ∈ opcodeMap) (i : Instr) : r.covers (encode i) = true ↔ r = i.row := by
  rw [covers_iff_exists_encode hr]
  constructor
  · rintro ⟨j, rfl, hj⟩
    rw [encode_injective hj]
  · rintro rfl
    exact ⟨i, rfl, rfl⟩

/-- Settles O4: a word of two rows is the word of an instruction of each, and these are the same instruction. -/
theorem opcodeMapDisjoint : Obligations.OpcodeMapDisjoint := by
  refine ⟨rfl, fun r hr q hq op hrop hqop => ?_⟩
  obtain ⟨i, rfl, rfl⟩ := (covers_iff_exists_encode hr op).mp hrop
  exact ((covers_encode_iff hq i).mp hqop).symm

/-! ## The operand fields of a word (R71) -/

/-- The field holds the bits of `op` at its place. -/
def Field.ReadFrom (op : Word) (f : Field) : Prop := f.value = op.toNat / 2 ^ f.lo % 2 ^ f.width

theorem toNat_extract (op : Word) (lo width : Nat) :
    (op.extractLsb' lo width).toNat = op.toNat / 2 ^ lo % 2 ^ width := by
  rw [BitVec.extractLsb'_toNat, Nat.shiftRight_eq_div_pow]

theorem readFrom_fieldX (op : Word) : (fieldX (opX op)).ReadFrom op := toNat_extract op 8 4
theorem readFrom_fieldY (op : Word) : (fieldY (opY op)).ReadFrom op := toNat_extract op 4 4
theorem readFrom_fieldN (op : Word) : (fieldN (opN op)).ReadFrom op := toNat_extract op 0 4
theorem readFrom_fieldKk (op : Word) : (fieldKk (opKk op)).ReadFrom op := toNat_extract op 0 8
theorem readFrom_fieldNnn (op : Word) : (fieldNnn (opNnn op)).ReadFrom op := toNat_extract op 0 12

theorem fields_withFieldsOf_readFrom (i : Instr) (op : Word) : ∀ f ∈ (i.withFieldsOf op).fields, f.ReadFrom op := by
  cases i <;> simp [Instr.withFieldsOf, Instr.fields, readFrom_fieldX, readFrom_fieldY, readFrom_fieldN,
    readFrom_fieldKk, readFrom_fieldNnn]

/-- The fields of an instruction are the bits of its word at their places. -/
theorem fields_readFrom_encode (i : Instr) : ∀ f ∈ i.fields, f.ReadFrom (encode i) := by
  have own : i.withFieldsOf (encode i) = i :=
    encode_injective (encode_withFieldsOf ((Row.covers_iff _ _).mp (row_covers_encode i)))
  have key := fields_withFieldsOf_readFrom i (encode i)
  rwa [own] at key

/-- Settles O3: a word that decodes is the word of its instruction, and every word of a row decodes. -/
theorem decodeFollowsOpcodeMap : Obligations.DecodeFollowsOpcodeMap := by
  intro op
  obtain ⟨i, hi, rfl⟩ | he := decodeWord_exact op
  · exact .inl ⟨i, hi, ⟨i.row, Laws.row_mem_opcodeMap i, row_covers_encode i⟩, fun r hr => covers_encode_iff hr i,
      fields_readFrom_encode i⟩
  · refine .inr ⟨he, fun r hr => Bool.eq_false_of_not_eq_true fun hc => ?_⟩
    obtain ⟨i, rfl⟩ := (mem_opcodeMap_iff r).mp hr
    cases he.symm.trans (rowDecodes i op ((Row.covers_iff _ _).mp hc))

/-! ## Which words of a family decode (R80 to R85) -/

theorem decodeFamily0_decodes_iff (op : Word) :
    (∃ i, decodeFamily0 op = .ok i) ↔ op = 0x00E0 ∨ op = 0x00EE := by
  unfold decodeFamily0
  split
  · next hcls => simp [hcls]
  · next hcls =>
    split
    · next hret => simp [hret]
    · next hret => simpa using ⟨hcls, hret⟩

theorem decodeFamily8_decodes_iff (op : Word) :
    (∃ i, decodeFamily8 op = .ok i) ↔ opD op ∈ [0x0, 0x2, 0x4, 0x5, 0x6] := by
  unfold decodeFamily8
  split <;> simp_all [BitVec.toNat_eq]

theorem decodeFamily9_decodes_iff (op : Word) : (∃ i, decodeFamily9 op = .ok i) ↔ opD op = 0x0 := by
  unfold decodeFamily9
  split <;> simp_all [BitVec.toNat_eq]

theorem decodeFamilyE_decodes_iff (op : Word) : (∃ i, decodeFamilyE op = .ok i) ↔ opKk op ∈ [0x9E, 0xA1] := by
  unfold decodeFamilyE
  split <;> simp_all [BitVec.toNat_eq]

theorem decodeFamilyF_decodes_iff (op : Word) :
    (∃ i, decodeFamilyF op = .ok i) ↔ opKk op ∈ [0x07, 0x0A, 0x15, 0x1E, 0x29, 0x33, 0x55, 0x65] := by
  unfold decodeFamilyF
  split <;> simp_all [BitVec.toNat_eq]

theorem decodeWord_noRow_of_family {op : Word} (h : opA op ∈ [0x5, 0xB]) : decodeWord op = .error (.noRow op) := by
  simp only [List.mem_cons, List.not_mem_nil, or_false] at h
  rcases h with h | h <;> simp [decodeWord, h]

theorem decodeWord_decodes_of_family {op : Word} (h : opA op ∈ [0x1, 0x2, 0x3, 0x4, 0x6, 0x7, 0xA, 0xC, 0xD]) :
    ∃ i, decodeWord op = .ok i := by
  simp only [List.mem_cons, List.not_mem_nil, or_false] at h
  rcases h with h | h | h | h | h | h | h | h | h <;> simp [decodeWord, h]

theorem decodeWord_family0 {op : Word} (h : opA op = 0x0) : decodeWord op = decodeFamily0 op := by simp [decodeWord, h]
theorem decodeWord_family8 {op : Word} (h : opA op = 0x8) : decodeWord op = decodeFamily8 op := by simp [decodeWord, h]
theorem decodeWord_family9 {op : Word} (h : opA op = 0x9) : decodeWord op = decodeFamily9 op := by simp [decodeWord, h]
theorem decodeWord_familyE {op : Word} (h : opA op = 0xE) : decodeWord op = decodeFamilyE op := by simp [decodeWord, h]
theorem decodeWord_familyF {op : Word} (h : opA op = 0xF) : decodeWord op = decodeFamilyF op := by simp [decodeWord, h]

/-- Settles O5, by each family's own decoder. -/
theorem decodableWordsByFamily : Obligations.DecodableWordsByFamily := by
  intro op
  refine ⟨fun h => ?_, fun h => ?_, fun h => ?_, fun h => ?_, fun h => ?_, decodeWord_noRow_of_family,
    decodeWord_decodes_of_family, decodeWord_of_undecodable⟩
  · rw [decodeWord_family0 h, decodeFamily0_decodes_iff]
  · rw [decodeWord_family8 h, decodeFamily8_decodes_iff]
  · rw [decodeWord_family9 h, decodeFamily9_decodes_iff]
  · rw [decodeWord_familyE h, decodeFamilyE_decodes_iff]
  · rw [decodeWord_familyF h, decodeFamilyF_decodes_iff]

/-! ## Sample words -/

/-- Settles O6: each pair of bytes is the word of its instruction, and `F118` is a word of no row. -/
theorem sampleWordsDecode : Obligations.SampleWordsDecode :=
  ⟨decode_encodeBytes_append (.jp 0x234) [], decode_encodeBytes_append (.shr 1 2) [],
    decode_encodeBytes_append (.drw 1 2 5) [], decode_encodeBytes_append (.ldToDt 10) [], rfl⟩

end Sys2Proof

/-! # One step of the Executor (40_execution_cycle.md) -/

namespace Sys2Proof.Machine

/-! ## The instruction at `pc`, or the error (R102, R103, R227) -/

theorem fetchDecode_of_fetch_error {s : State} {a : Nat} (h : fetch s.mem s.pc = .error a) :
    fetchDecode s = .error (.memoryBoundsError s.pc none a) := by
  rw [fetchDecode, h]

theorem fetchDecode_of_undecodable {s : State} {op : Word} (hf : fetch s.mem s.pc = .ok op)
    (hd : ¬ ∃ i, decodeWord op = .ok i) : fetchDecode s = .error (.decodeError s.pc op) := by
  simp only [fetchDecode, hf, decodeWord_of_undecodable hd]

/-- Two bytes decode, with nothing left over, exactly to what their word decodes to. -/
theorem decode_pair_ok_iff (h l : Byte) (i : Instr) :
    decode [h, l] = .ok (i, []) ↔ decodeWord (concatBytes h l) = .ok i := by
  cases hd : decodeWord (concatBytes h l) <;> simp [decode, hd]

/-- Inside the image, `Fetch` and the decoder read the two bytes at `pc`. -/
theorem fetchDecode_ok_of_decode {s : State} {i : Instr} (inside : s.pc.toNat + 1 < Config.memSize)
    (h : decode (s.mem.readBytes s.pc.toNat 2) = .ok (i, [])) : fetchDecode s = .ok i :=
  (fetchDecode_ok_iff s i).mpr ⟨_, fetch_of_le inside, (decode_pair_ok_iff _ _ i).mp h⟩

/-- Taking in the inputs changes neither the memory nor `pc`. -/
@[simp] theorem fetchDecode_admitHost (s : State) : fetchDecode s.admitHost = fetchDecode s := rfl

/-! ## The three branches of `step()` (R100, R101) -/

theorem executorStep_of_faulted {s : State} {e : FatalError} (h : s.mode = .faulted e) :
    executorStep s = .next (s.faultWith e) := by
  simp only [executorStep, h, State.raise_eq]

theorem executorStep_of_error {s : State} {e : FatalError} (hr : s.mode = .running) (h : fetchDecode s = .error e) :
    executorStep s = .next (s.faultWith e) := by
  simp only [executorStep, hr, h, State.raise_eq]

theorem executorStep_of_ok {s : State} {i : Instr} (hr : s.mode = .running) (h : fetchDecode s = .ok i) :
    executorStep s = exec i s := by
  simp only [executorStep, hr, h]

theorem step_of_error {s : State} {e : FatalError} (turn : s.ticksDue = 0) (hr : s.mode = .running)
    (h : fetchDecode s = .error e) : step s = .next (s.admitHost.faultWith e) :=
  (step_executor turn).trans (executorStep_of_error hr ((fetchDecode_admitHost s).trans h))

theorem step_of_ok {s : State} {i : Instr} (turn : s.ticksDue = 0) (hr : s.mode = .running)
    (h : fetchDecode s = .ok i) : step s = exec i s.admitHost :=
  (step_executor turn).trans (executorStep_of_ok hr ((fetchDecode_admitHost s).trans h))

/-- Settles O15: the fetch or the decoder answers the error, which the step raises. -/
theorem stepRaisesFetchAndDecodeErrors : Obligations.StepRaisesFetchAndDecodeErrors := by
  intro s turn running
  exact ⟨fun _ hf => step_of_error turn running (fetchDecode_of_fetch_error hf),
    fun _ hf hd => step_of_error turn running (fetchDecode_of_undecodable hf (not_exists.mpr hd))⟩

/-- Settles O10: fetch and decode give the instruction that the two bytes at `pc` decode to. -/
theorem stepRunsDecodedInstruction : Obligations.StepRunsDecodedInstruction := by
  intro s i turn running inside _ hd
  exact ⟨step_of_ok turn running (fetchDecode_ok_of_decode inside hd), rfl⟩

/-! ## A step always answers, and reports the mode (R100, R108) -/

theorem exec_total (i : Instr) (s : State) : ∃ t, exec i s = .next t := by
  rcases exec_answers i s with ⟨u, h, -⟩ | h | ⟨e, h⟩ <;> exact ⟨_, h⟩

theorem executorStep_total (s : State) : ∃ t, executorStep s = .next t := by
  cases hm : s.mode with
  | faulted e => exact ⟨_, executorStep_of_faulted hm⟩
  | running =>
    cases hf : fetchDecode s with
    | error e => exact ⟨_, executorStep_of_error hm hf⟩
    | ok i =>
      rw [executorStep_of_ok hm hf]
      exact exec_total i s

/-- What a step of the Executor returned to the host agrees with the mode it left: `Fatal(e)` exactly in `Faulted(e)`, and
a frame is ready exactly in `Running` (R100, R108). -/
def State.ReportsMode (t : State) : Prop :=
  ∃ r, t.result = some r ∧ (∀ e, r = .fatal e ↔ t.mode = .faulted e) ∧ (t.frameReady = true ↔ t.mode = .running)

theorem State.frameReady_iff {t : State} {r : StepResult} (h : t.result = some r) :
    t.frameReady = true ↔ ∀ e, r ≠ .fatal e := by
  cases r <;> simp [State.frameReady, h]

theorem Mode.eq_running_iff (m : Mode) : m = .running ↔ ∀ e, m ≠ .faulted e := by
  cases m <;> simp

/-- The frame follows from the error: there is none to report exactly in `Running`. -/
theorem State.reportsMode_of_fatal_iff {t : State} {r : StepResult} (h : t.result = some r)
    (hm : ∀ e, r = .fatal e ↔ t.mode = .faulted e) : t.ReportsMode :=
  ⟨r, h, hm, by simp only [State.frameReady_iff h, Mode.eq_running_iff, ne_eq, hm]⟩

theorem State.reportsMode_faultWith (s : State) (e : FatalError) : (s.faultWith e).ReportsMode :=
  State.reportsMode_of_fatal_iff rfl (by simp)

theorem exec_reportsMode {i : Instr} {s t : State} (hr : s.mode = .running) (h : exec i s = .next t) :
    t.ReportsMode := by
  rcases exec_next_cases h with hc | rfl | ⟨e, rfl⟩
  · exact State.reportsMode_of_fatal_iff hc.result (by simp [hc.frame.mode, hr])
  · exact State.reportsMode_of_fatal_iff rfl (by simp [hr])
  · exact s.reportsMode_faultWith e

theorem executorStep_reportsMode {s t : State} (h : executorStep s = .next t) : t.ReportsMode := by
  rcases executorStep_cases h with ⟨e, -, rfl⟩ | ⟨e, -, -, rfl⟩ | ⟨i, hr, -, ht⟩
  · exact s.reportsMode_faultWith e
  · exact s.reportsMode_faultWith e
  · exact exec_reportsMode hr ht

/-- Settles O17: a tick always happens and returns nothing; the Executor's step always answers and reports its mode. -/
theorem stepAlwaysAnswers : Obligations.StepAlwaysAnswers := by
  intro s
  cases turn : s.ticksDue with
  | zero =>
    obtain ⟨t, ht⟩ := executorStep_total s.admitHost
    exact ⟨t, (step_executor turn).trans ht, fun _ => executorStep_reportsMode ht, fun h => absurd rfl h⟩
  | succ n => exact ⟨s.timerTurn n, step_timerTurn turn, fun h => absurd h n.succ_ne_zero, fun _ => ⟨rfl, rfl⟩⟩

end Sys2Proof.Machine

/-! # The display (41_display.md) -/

namespace Sys2Proof

open Sys2Proof.Machine

theorem Instr.display_mem_writesParts {i : Instr} (h : Part.display ∈ i.writesParts) :
    i = .cls ∨ ∃ x y n, i = .drw x y n := by
  cases i <;> simp [Instr.writesParts] at h ⊢

end Sys2Proof

namespace Sys2Proof.Machine

/-! ## Who writes the display (R121) -/

/-- Displays with the same cells are the same. -/
theorem Display.eq_of_pixel_eq {d e : Display} (h : ∀ x y, Display.pixel d x y = Display.pixel e x y) : d = e :=
  Vector.ext fun y hy => Vector.ext fun x hx => h ⟨x, hx⟩ ⟨y, hy⟩

/-- Settles O22, from the frame of every instruction, which keeps each cell. -/
theorem displayWritersOnly : Obligations.DisplayWritersOnly := by
  intro i s t h hne
  refine Instr.display_mem_writesParts ?_
  by_contra hmem
  exact hne (Display.eq_of_pixel_eq ((exec_frame h).display hmem))

/-! ## Clearing (R122) -/

/-- Settles O32: `clear()` and the advance of `pc` are all that `00E0` does. -/
theorem clsClearsDisplay : Obligations.ClsClearsDisplay :=
  ⟨rowDecodes .cls, fun s => ⟨_, rfl, rfl, rfl, Display.pixel_clear,
    (((frame_refl _ _ _ s).setDisp (.head _) _).advance 2).setResult .ok⟩⟩

/-! ## A sprite that reads outside the memory (R128) -/

/-- Settles O34: the check of the rows fails before anything is written. -/
theorem drwRaisesOutOfBounds : Obligations.DrwRaisesOutOfBounds := by
  intro s x y n hn hgt
  exact exec_drw_of_outOfBounds x y (outOfBounds_of_gt (Fin.val_ne_zero_iff.mpr hn) hgt)

/-! ## The cells under a sprite (R123 to R125) -/

/-- The column of a bit, read back from the cell it falls on: the offset from the start, modulo the width. -/
theorem eq_ofNat_column_iff {v c : Nat} (hv : v < 256) (hc : c < 8) (px : Fin 64) :
    px = Fin.ofNat 64 (v + c) ↔ (px.val + 256 - v) % 64 = c := by
  rw [Fin.ext_iff, Fin.val_ofNat]
  omega

/-- The row, read back likewise, modulo the height. -/
theorem eq_ofNat_row_iff {v r : Nat} (hv : v < 256) (hr : r < 16) (py : Fin 32) :
    py = Fin.ofNat 32 (v + r) ↔ (py.val + 256 - v) % 32 = r := by
  rw [Fin.ext_iff, Fin.val_ofNat]
  omega

/-- The cells that `Dxyn` draws are those the sprite covers. -/
theorem mem_spritePixels_iff_spriteCovers (s : State) (vx vy : Byte) (n : Fin 16) (px : Fin 64) (py : Fin 32) :
    (px, py) ∈ spritePixels vx.toNat vy.toNat (s.mem.readBytes s.dataAddr n.val) ↔
      s.spriteCovers vx vy n.val px py = true := by
  have hn := n.isLt
  simp only [mem_spritePixels, Memory.readBytes_length, Memory.readBytes_get, Prod.mk.injEq, State.spriteCovers,
    Bool.and_eq_true, decide_eq_true_eq, exists_prop]
  constructor
  · rintro ⟨r, hr, c, hc, hbit, hx, hy⟩
    rw [(eq_ofNat_column_iff vx.isLt hc px).mp hx, (eq_ofNat_row_iff vy.isLt (by omega) py).mp hy]
    exact ⟨⟨hc, hr⟩, hbit⟩
  · rintro ⟨⟨hc, hr⟩, hbit⟩
    exact ⟨_, hr, _, hc, hbit, (eq_ofNat_column_iff vx.isLt hc px).mpr rfl,
      (eq_ofNat_row_iff vy.isLt (by omega) py).mpr rfl⟩

/-- What a sprite covers depends on `I` and the memory alone. -/
theorem State.spriteCovers_congr {s t : State} (hi : t.index = s.index) (hm : ∀ a, t.mem.read a = s.mem.read a) :
    t.spriteCovers = s.spriteCovers := by
  funext vx vy n px py
  simp only [State.spriteCovers, hi, hm]

/-! ## Drawing (R126, R127, R129) -/

section Drawing
variable (s : State) (x y : Reg) (n : Fin 16)

/-- No cell is drawn twice. -/
theorem nodup_drwPixels :
    (spritePixels (s.reg x).toNat (s.reg y).toNat (s.mem.readBytes s.dataAddr n.val)).Nodup :=
  nodup_spritePixels _ _ _ (by rw [Memory.readBytes_length]; omega)

/-- Each cell is toggled exactly if the sprite covers it. -/
theorem State.pixel_drawn (px : Fin 64) (py : Fin 32) :
    Display.pixel (s.drawn x y n).1 px py =
      (s.pixel px py ^^ s.spriteCovers (s.reg x) (s.reg y) n.val px py) := by
  rw [State.drawn, Display.pixel_drawPixels _ _ (nodup_drwPixels s x y n)]
  simp only [mem_spritePixels_iff_spriteCovers, Bool.decide_eq_true, State.pixel]

/-- The draw collides exactly if a covered cell was on. -/
theorem State.hit_drawn :
    (s.drawn x y n).2 = true ↔
      ∃ px py, s.spriteCovers (s.reg x) (s.reg y) n.val px py = true ∧ s.pixel px py = true := by
  rw [State.drawn, Display.hit_drawPixels _ _ (nodup_drwPixels s x y n), Prod.exists]
  simp only [mem_spritePixels_iff_spriteCovers, State.pixel]

/-- The flag as a byte: 1 with a collision, 0 where every covered cell was off. -/
theorem State.boolByte_hit_drawn :
    (boolByte (s.drawn x y n).2 = 1 ∧
        ∃ px py, s.spriteCovers (s.reg x) (s.reg y) n.val px py = true ∧ s.pixel px py = true) ∨
      (boolByte (s.drawn x y n).2 = 0 ∧
        ∀ px py, s.spriteCovers (s.reg x) (s.reg y) n.val px py = true → s.pixel px py = false) := by
  have hit := s.hit_drawn x y n
  cases hc : (s.drawn x y n).2 with
  | true => exact .inl ⟨rfl, hit.mp hc⟩
  | false =>
    refine .inr ⟨rfl, fun px py covered => ?_⟩
    by_contra hon
    have collides := hit.mpr ⟨px, py, covered, Bool.eq_true_of_not_eq_false hon⟩
    rw [hc] at collides
    cases collides

end Drawing

/-- Settles O33: the check passes, and the drawn display and the collision are what is written. -/
theorem drwDrawsSprite : Obligations.DrwDrawsSprite := by
  refine ⟨rowDecodes (.drw 0 0 0), fun s x y n hn => ?_⟩
  have inside : outOfBounds s.dataAddr n.val = none :=
    (outOfBounds_none_iff _ _).mpr (hn.imp_left Fin.val_eq_zero_iff.mpr)
  refine ⟨_, exec_drw_of_inBounds x y inside, rfl, rfl, s.pixel_drawn x y n, ?_,
    ((((frame_refl (onlyReg regF) [.display] noByte s).setReg rfl _).setDisp (.head _) _).advance 2).setResult .ok⟩
  simpa only [State.setResult_reg, State.advance_reg, State.setDisp_reg, State.reg_setReg_same] using
    s.boolByte_hit_drawn x y n

/-- Settles O35: the second draw covers the same cells, so it toggles each back, and it collides where the first one
turned a cell on. -/
theorem drwTwiceRestoresDisplay : Obligations.DrwTwiceRestoresDisplay := by
  intro s x y n hx hy hn
  obtain ⟨t, ht, -, -, first, -, frame⟩ := drwDrawsSprite.2 s x y n hn
  have index : t.index = s.index := frame.index (by decide)
  obtain ⟨u, hu, -, -, second, flag, -⟩ := drwDrawsSprite.2 t x y n (by rwa [index])
  rw [State.spriteCovers_congr index fun a => frame.memory a id, frame.reg x hx, frame.reg y hy] at second flag
  refine ⟨t, u, ht, hu, fun px py => ?_, ?_⟩
  · rw [second, first, Bool.xor_assoc, Bool.xor_self, Bool.xor_false]
  · have turnedOn : ∀ before covered : Bool,
        before = false ∧ (before ^^ covered) = true ↔ covered = true ∧ (before ^^ covered) = true := by decide
    simp only [first, turnedOn] at flag ⊢
    rcases flag with ⟨one, hit⟩ | ⟨zero, miss⟩
    · exact iff_of_true one hit
    · refine iff_of_false (by rw [zero]; decide) ?_
      rintro ⟨px, py, covered, hon⟩
      rw [miss px py covered] at hon
      cases hon

end Sys2Proof.Machine

/-! # Control transfer (42_control_flow.md) -/

namespace Sys2Proof.Machine

/-- Two frames with the same limits, one after the other. -/
theorem Frame.trans {R : Reg → Prop} {P : List Part} {B : Nat → Prop} {s t u : State} (h : Frame R P B s t)
    (k : Frame R P B t u) : Frame R P B s u where
  reg r hr := (k.reg r hr).trans (h.reg r hr)
  index hn := (k.index hn).trans (h.index hn)
  callStack hn :=
    have ⟨kstack, ksp⟩ := k.callStack hn
    have ⟨hstack, hsp⟩ := h.callStack hn
    ⟨kstack.trans hstack, ksp.trans hsp⟩
  delayTimer hn := (k.delayTimer hn).trans (h.delayTimer hn)
  display hn x y := (k.display hn x y).trans (h.display hn x y)
  memory a ha := (k.memory a ha).trans (h.memory a ha)
  soundTimer := k.soundTimer.trans h.soundTimer
  mode := k.mode.trans h.mode
  inputs :=
    have ⟨kkeys, krnd, kcount, kticks⟩ := k.inputs
    have ⟨hkeys, hrnd, hcount, hticks⟩ := h.inputs
    ⟨kkeys.trans hkeys, krnd.trans hrnd, kcount.trans hcount, kticks.trans hticks⟩

/-! ## Jump, call and return (R140 to R142, R148) -/

/-- Settles O38: `1nnn` writes `pc` alone. -/
theorem jpSetsPc : Obligations.JpSetsPc :=
  ⟨rowDecodes (.jp 0), fun s nnn =>
    ⟨_, rfl, rfl, addrWord_toNat nnn, ((frame_refl _ _ _ s).setPc _).setResult .ok⟩⟩

/-- The most recent return address is the entry below the stack pointer. -/
theorem State.stack_get_top (s : State) (h : 0 < s.sp.val) : s.stack[s.sp.val - 1]? = some (s.top h) :=
  Vector.getElem?_eq_getElem _

/-- Settles O37, by whether an entry is occupied. -/
theorem retPopsOrRaises : Obligations.RetPopsOrRaises := by
  refine ⟨rowDecodes .ret, fun s => ⟨fun hpos => ?_, fun hzero => exec_ret_of_zero (Nat.not_lt.mpr hzero.le)⟩⟩
  exact ⟨_, exec_ret_of_pos hpos, rfl, rfl, s.stack_get_top hpos, rfl,
    (((frame_refl _ _ _ s).pop (.head _)).setPc _).setResult .ok⟩

/-- Settles O39, by whether an entry is free. -/
theorem callPushesOrRaises : Obligations.CallPushesOrRaises := by
  refine ⟨rowDecodes (.call 0), fun s nnn =>
    ⟨fun hlt => ?_, fun hfull => exec_call_of_full nnn (Nat.not_lt.mpr hfull.ge)⟩⟩
  exact ⟨_, exec_call_of_lt nnn hlt, rfl, rfl, Vector.getElem?_set_self hlt,
    fun j hj => Vector.getElem?_set_ne hlt hj.symm, addrWord_toNat nnn,
    (((frame_refl _ _ _ s).push (.head _) _ hlt).setPc _).setResult .ok⟩

/-- Settles O40: the entry that the return pops is the one that the call pushed. -/
theorem retAfterCallReturns : Obligations.RetAfterCallReturns := by
  intro s nnn hlt
  obtain ⟨t, ht, -, tsp, pushed, others, -, tframe⟩ := (callPushesOrRaises.2 s nnn).1 hlt
  have occupied : 0 < t.sp.val := tsp ▸ Nat.succ_pos _
  obtain ⟨u, hu, -, usp, popped, ustack, uframe⟩ := (retPopsOrRaises.2 t).1 occupied
  rw [tsp, Nat.add_sub_cancel] at usp popped
  rw [← ustack] at pushed others popped
  exact ⟨t, u, ht, hu, Option.some.inj (popped.symm.trans pushed), Fin.ext usp, others, pushed, tframe.trans uframe⟩

/-! ## Skips (R143 to R146) -/

/-- A skip completes and writes `pc` alone; `p` is the condition under which its test `c` skips, and `q` the one under
which it goes on to the next instruction. -/
theorem skipIf_completes (s : State) {c : Bool} {p q : Prop} (skips : p → c = true) (goesOn : q → c = false) :
    ∃ t, (s.skipIf c).complete = .next t ∧ t.result = some .ok ∧ Frame noReg [] noByte s t ∧
      (p → t.pc = s.pc + 4) ∧ (q → t.pc = s.pc + 2) := by
  refine ⟨_, rfl, rfl, ((frame_refl _ _ _ s).skipIf c).setResult .ok, fun hp => ?_, fun hq => ?_⟩
  · rw [skips hp]
    rfl
  · rw [goesOn hq]
    rfl

/-- Settles O41: the two skips test the same equality, one for each answer. -/
theorem immediateSkips : Obligations.ImmediateSkips :=
  ⟨rowDecodes (.seImm 0 0), rowDecodes (.sneImm 0 0), fun s _ _ =>
    ⟨skipIf_completes s beq_iff_eq.mpr beq_false_of_ne, skipIf_completes s bne_iff_ne.mpr bne_eq_false_iff_eq.mpr⟩⟩

/-- Settles O42, by whether the registers differ. -/
theorem registerSkip : Obligations.RegisterSkip :=
  ⟨rowDecodes (.sneReg 0 0), fun s _ _ => skipIf_completes s bne_iff_ne.mpr bne_eq_false_iff_eq.mpr⟩

end Sys2Proof.Machine

/-! # Registers and arithmetic (43_alu.md) -/

namespace Sys2Proof.Machine

/-! ## The values that are written (R160, R165 to R167) -/

theorem narrow8_toNat (n : Nat) : (narrow8 n).toNat = n % 256 := BitVec.toNat_ofNat n 8

theorem boolByte_eq_zero_or_one (c : Bool) : boolByte c = 0 ∨ boolByte c = 1 := by
  cases c with
  | false => exact .inl rfl
  | true => exact .inr rfl

theorem boolByte_eq_one_iff (c : Bool) : boolByte c = 1 ↔ c = true := by
  cases c <;> decide

/-- The carry is the part of the exact sum above a byte. -/
theorem boolByte_carry_toNat (a b : Byte) : (boolByte (carry a b)).toNat = (a.toNat + b.toNat) / 256 := by
  have ha := a.isLt
  have hb := b.isLt
  by_cases h : a.toNat + b.toNat > 255
  · have one : (a.toNat + b.toNat) / 256 = 1 := by omega
    rw [carry, decide_eq_true h, one]
    rfl
  · have zero : (a.toNat + b.toNat) / 256 = 0 := by omega
    rw [carry, decide_eq_false h, zero]
    rfl

/-- The difference that is written is the one byte that gives back `a` when `b` is added to it. -/
theorem narrow8_sub_add (a b : Byte) : ((narrow8 (a.toNat + 256 - b.toNat)).toNat + b.toNat) % 256 = a.toNat := by
  have ha := a.isLt
  have hb := b.isLt
  rw [narrow8_toNat]
  omega

theorem shiftedOut_toNat (a : Byte) : (shiftedOut a).toNat = a.toNat % 2 :=
  (BitVec.toNat_and a 1).trans (Nat.and_one_is_mod _)

theorem half_toNat (a : Byte) : (a >>> 1).toNat = a.toNat / 2 := by
  rw [BitVec.toNat_ushiftRight, Nat.shiftRight_eq_div_pow, Nat.pow_one]

/-! ## The two shapes of a meaning: one register written, or two in order (R106) -/

/-- One register is written, and the instruction completes. -/
theorem setReg_completes (s : State) (x : Reg) (b : Byte) :
    ∃ t, ((s.setReg x b).advance 2).complete = .next t ∧ t.result = some .ok ∧ t.pc = s.pc + 2 ∧ t.reg x = b ∧
      Frame (onlyReg x) [] noByte s t :=
  ⟨_, rfl, rfl, rfl, s.reg_setReg_same x b, (((frame_refl (onlyReg x) _ _ s).setReg rfl b).advance 2).setResult .ok⟩

/-- Two registers are written in order, and the instruction completes: the second write stays, the first one unless the
second is to the same register. -/
theorem setReg_setReg_completes (s : State) {R : Reg → Prop} {x y : Reg} (hx : R x) (hy : R y) (b c : Byte) :
    ∃ t, (((s.setReg x b).setReg y c).advance 2).complete = .next t ∧ t.result = some .ok ∧ t.pc = s.pc + 2 ∧
      (x ≠ y → t.reg x = b) ∧ t.reg y = c ∧ Frame R [] noByte s t :=
  ⟨_, rfl, rfl, rfl, fun hne => (State.reg_setReg_ne _ c hne).trans (s.reg_setReg_same x b),
    State.reg_setReg_same _ y c, ((((frame_refl _ _ _ s).setReg hx b).setReg hy c).advance 2).setResult .ok⟩

/-! ## One register written (R161 to R164, R168) -/

/-- Settles O43: the immediate is the one value written. -/
theorem loadImmediate : Obligations.LoadImmediate :=
  ⟨rowDecodes (.ldImm 0 0), setReg_completes⟩

/-- Settles O44: the sum, narrowed to a byte, is the one value written. -/
theorem addImmediateWraps : Obligations.AddImmediateWraps := by
  refine ⟨rowDecodes (.addImm 0 0), fun s x kk => ?_⟩
  obtain ⟨t, ht, ok, pc, sum, frame⟩ := setReg_completes s x (narrow8 ((s.reg x).toNat + kk.toNat))
  exact ⟨t, ht, ok, pc, sum ▸ narrow8_toNat _, frame⟩

/-- Settles O45: the copy, or the AND of the two registers, is the one value written. -/
theorem moveAndAnd : Obligations.MoveAndAnd := by
  refine ⟨rowDecodes (.ldReg 0 0), rowDecodes (.andReg 0 0), fun s x y => ⟨setReg_completes s x (s.reg y), ?_⟩⟩
  obtain ⟨t, ht, ok, pc, both, frame⟩ := setReg_completes s x (s.reg x &&& s.reg y)
  exact ⟨t, ht, ok, pc, fun _ => both ▸ BitVec.getLsbD_and, frame⟩

/-- Settles O49: the AND of the draw and the immediate is the one value written. -/
theorem randomAndImmediate : Obligations.RandomAndImmediate := by
  refine ⟨rowDecodes (.rndImm 0 0), fun s x kk => ?_⟩
  obtain ⟨t, ht, ok, pc, masked, frame⟩ := setReg_completes s x (s.rnd &&& kk)
  exact ⟨t, ht, ok, pc, fun _ => masked ▸ BitVec.getLsbD_and, frame⟩

/-! ## A register and the flag written (R165 to R167) -/

/-- Settles O46: the sum is written, then the carry. -/
theorem addRegistersWithCarry : Obligations.AddRegistersWithCarry := by
  refine ⟨rowDecodes (.addReg 0 0), fun s x y => ?_⟩
  obtain ⟨t, ht, ok, pc, sum, flag, frame⟩ :=
    setReg_setReg_completes s (R := regAndFlag x) (.inl rfl) (.inr rfl) (narrow8 ((s.reg x).toNat + (s.reg y).toNat))
      (boolByte (carry (s.reg x) (s.reg y)))
  exact ⟨t, ht, ok, pc, fun hx => sum hx ▸ narrow8_toNat _, flag ▸ boolByte_carry_toNat _ _, frame⟩

/-- Settles O47: the difference is written, then the flag, whose meaning is taken by each value of `SUB_FLAG`. -/
theorem subtractRegistersWithFlag : Obligations.SubtractRegistersWithFlag := by
  refine ⟨rowDecodes (.subReg 0 0), fun s x y => ?_⟩
  obtain ⟨t, ht, ok, pc, difference, flag, frame⟩ :=
    setReg_setReg_completes s (R := regAndFlag x) (.inl rfl) (.inr rfl)
      (narrow8 ((s.reg x).toNat + 256 - (s.reg y).toNat)) (boolByte (subFlag (s.reg x) (s.reg y)))
  refine ⟨t, ht, ok, pc, fun hx => difference hx ▸ narrow8_sub_add _ _, flag ▸ boolByte_eq_zero_or_one _, ?_, frame⟩
  rw [flag, boolByte_eq_one_iff, subFlag]
  generalize Config.subFlag = f
  cases f with
  | ge | gt | borrow => exact decide_eq_true_iff

/-- Settles O48: the bit shifted out is written, then the half. -/
theorem shiftRightWithFlag : Obligations.ShiftRightWithFlag := by
  refine ⟨rowDecodes (.shr 0 0), fun s x y => ?_⟩
  obtain ⟨t, ht, ok, pc, flag, half, frame⟩ :=
    setReg_setReg_completes s (R := regAndFlag x) (.inr rfl) (.inl rfl) (shiftedOut (s.reg x)) (s.reg x >>> 1)
  exact ⟨t, ht, ok, pc, half ▸ half_toNat _, fun hx => flag hx.symm ▸ shiftedOut_toNat _, frame⟩

end Sys2Proof.Machine

/-! # Index register and memory (44_index_memory.md) -/

namespace Sys2Proof.Machine

/-! ## The index register written (R180 to R182) -/

theorem narrow16_toNat (n : Nat) : (narrow16 n).toNat = n % 65536 := BitVec.toNat_ofNat n 16

/-- Five times a byte fits in `I`, so that no glyph address wraps. -/
theorem glyphAddr_toNat (vx : Byte) : (glyphAddr vx).toNat = 5 * vx.toNat := by
  have := vx.isLt
  rw [glyphAddr, narrow16_toNat, Config.fontBase, Config.glyphBytes]
  omega

/-- `I` is written, and the instruction completes. -/
theorem setIndex_completes (s : State) (w : Word) :
    ∃ t, ((s.setIndex w).advance 2).complete = .next t ∧ t.result = some .ok ∧ t.pc = s.pc + 2 ∧ t.index = w ∧
      Frame noReg [.index] noByte s t :=
  ⟨_, rfl, rfl, rfl, rfl, (((frame_refl _ _ _ s).setIndex (.head _) w).advance 2).setResult .ok⟩

/-- Settles O50: the zero-extended address is the one value written. -/
theorem loadIndex : Obligations.LoadIndex := by
  refine ⟨rowDecodes (.ldIndex 0), fun s nnn => ?_⟩
  obtain ⟨t, ht, ok, pc, index, frame⟩ := setIndex_completes s (addrWord nnn)
  exact ⟨t, ht, ok, pc, index ▸ addrWord_toNat nnn, frame⟩

/-- Settles O51: the narrowed sum, or the glyph's address, is the one value written. -/
theorem addIndexAndGlyphAddress : Obligations.AddIndexAndGlyphAddress := by
  refine ⟨rowDecodes (.addIndex 0), rowDecodes (.ldFont 0), fun s x => ⟨?_, ?_⟩⟩
  · obtain ⟨t, ht, ok, pc, sum, frame⟩ := setIndex_completes s (narrow16 (s.index.toNat + (s.reg x).toNat))
    exact ⟨t, ht, ok, pc, sum ▸ narrow16_toNat _, frame⟩
  · obtain ⟨t, ht, ok, pc, glyph, frame⟩ := setIndex_completes s (glyphAddr (s.reg x))
    exact ⟨t, ht, ok, pc, glyph ▸ glyphAddr_toNat _, frame⟩

/-! ## Stores through the index register (R183, R184) -/

/-- A store whose range lies inside the memory completes with each of its bytes at its address. -/
theorem storeBytes_completes {s : State} (i : Instr) {bs : List Byte} (hm : s.mem.wf)
    (inside : s.index.toNat + bs.length ≤ Config.memSize) :
    ∃ t, s.storeBytes i bs = .next t ∧ t.result = some .ok ∧ t.pc = s.pc + 2 ∧
      (∀ k (hk : k < bs.length), t.mem.read (s.index.toNat + k) = bs[k]) ∧
      Frame noReg [] (bytesFrom s.index.toNat bs.length) s t :=
  ⟨_, State.storeBytes_of_inBounds i (outOfBounds_of_le inside), rfl, rfl, Memory.read_writeBytes_inside hm inside,
    (((frame_refl _ _ _ s).writeBytes fun _ => id).advance 2).setResult .ok⟩

/-- A store whose range leaves the memory raises MemoryBoundsError at the lowest address outside it (R224). -/
theorem storeBytes_raises {s : State} (i : Instr) {bs : List Byte} (hpos : bs.length ≠ 0)
    (outside : Config.memSize < s.index.toNat + bs.length) :
    s.storeBytes i bs = s.raiseBounds i (max s.index.toNat Config.memSize) :=
  State.storeBytes_of_outOfBounds i (outOfBounds_of_gt hpos outside)

/-- Settles O52: the three digits are stored as one range, each a byte on its own. -/
theorem bcdStoresDigits : Obligations.BcdStoresDigits := by
  refine ⟨rowDecodes (.ldBcd 0), fun s x hm => ⟨fun inside => ?_, fun outside => ?_⟩⟩
  · obtain ⟨t, ht, ok, pc, digits, frame⟩ :=
      storeBytes_completes (.ldBcd x) (bs := bcdDigits (s.reg x)) hm inside
    have hx := (s.reg x).isLt
    refine ⟨t, ht, ok, pc, ?_, ?_, ?_, frame⟩
    · exact (congrArg BitVec.toNat (digits 0 (by simp))).trans (narrow8_toNat_of_lt (by omega))
    · exact (congrArg BitVec.toNat (digits 1 (by simp))).trans (narrow8_toNat_of_lt (by omega))
    · exact (congrArg BitVec.toNat (digits 2 (by simp))).trans (narrow8_toNat_of_lt (by omega))
  · exact storeBytes_raises (.ldBcd x) (by simp) (Nat.lt_succ_of_le outside)

/-- Settles O53: the registers up to `Vx` are stored as one range. -/
theorem storeRegistersToMemory : Obligations.StoreRegistersToMemory := by
  refine ⟨rowDecodes (.storeRegs 0), fun s x hm => ⟨fun inside => ?_, fun outside => ?_⟩⟩
  · obtain ⟨t, ht, ok, pc, stored, frame⟩ := storeBytes_completes (.storeRegs x) hm (State.regRange_fits inside)
    rw [State.regRange_length] at frame
    refine ⟨t, ht, ok, pc, fun r hr => ?_, frame⟩
    have inRange : r.val < (s.regRange x).length := by
      rw [State.regRange_length]
      exact Nat.lt_succ_of_le hr
    exact (stored r.val inRange).trans (s.regRange_get x r.val inRange)
  · refine storeBytes_raises (.storeRegs x) (by simp) ?_
    rw [State.regRange_length]
    exact Nat.lt_succ_of_le outside

/-! ## Loads through the index register (R185) -/

/-- Settles O54: a register is written with its byte exactly when its number is at most `x`. -/
theorem loadRegistersFromMemory : Obligations.LoadRegistersFromMemory := by
  refine ⟨rowDecodes (.loadRegs 0), fun s x => ⟨fun inside => ?_, fun outside => ?_⟩⟩
  · have loaded := fun r => s.reg_setRegs_regsFrom x r s.dataAddr
    have frame : Frame (regsUpTo x) [] noByte s (s.setRegs (s.regsFrom x s.dataAddr)) :=
      (frame_refl _ _ _ s).setRegs fun r hr => (loaded r).trans (if_neg hr)
    exact ⟨_, exec_loadRegs_of_inBounds (outOfBounds_of_le inside), rfl, rfl,
      fun r hr => (loaded r).trans (if_pos hr), (frame.advance 2).setResult .ok⟩
  · exact exec_loadRegs_of_outOfBounds (outOfBounds_of_gt (Nat.succ_ne_zero _) (Nat.lt_succ_of_le outside))

/-- Settles O55: the store leaves `I`, so that the load reads the bytes just stored. -/
theorem loadAfterStoreRestores : Obligations.LoadAfterStoreRestores := by
  intro s x w hm inside
  obtain ⟨t, ht, -, -, stored, kept⟩ := (storeRegistersToMemory.2 s x hm).1 inside
  have index : (t.setRegs w).index = s.index := kept.index List.not_mem_nil
  obtain ⟨u, hu, -, -, loaded, others⟩ := (loadRegistersFromMemory.2 (t.setRegs w) x).1 (by rwa [index])
  rw [index] at loaded
  exact ⟨t, u, ht, hu, fun r => ⟨fun hr => (loaded r hr).trans (stored r hr), fun hr => others.reg r hr.not_ge⟩⟩

end Sys2Proof.Machine

/-! # Keypad and timers (45_keypad_timers.md) -/

namespace Sys2Proof.Machine

/-! ## Key skips (R200 to R202) -/

/-- The level a key query reads: the key is among the sixteen and down (R200). -/
theorem keyLevel_eq_decide (keys : Vector Bool 16) (n : Nat) :
    (if h : n < 16 then keys[n] else false) = decide (keys[n]? = some true) := by
  by_cases h : n < 16
  · simp [h]
  · simp [h]

/-- Settles O57: the two skips test the same level, one for each answer. -/
theorem keySkips : Obligations.KeySkips := by
  refine ⟨rowDecodes (.skp 0), rowDecodes (.sknp 0), fun s x => ⟨?_, ?_⟩⟩
  · rw [exec_skp, keyLevel_eq_decide]
    exact skipIf_completes s decide_eq_true decide_eq_false
  · rw [exec_sknp, keyLevel_eq_decide, ← decide_not]
    obtain ⟨t, ht, ok, frame, skips, goesOn⟩ :=
      skipIf_completes s (c := decide ¬ s.keys[(s.reg x).toNat]? = some true) decide_eq_true
        fun down => decide_eq_false (not_not_intro down)
    exact ⟨t, ht, ok, frame, goesOn, skips⟩

/-! ## The delay timer (R203, R204) -/

/-- The delay timer is written, and the instruction completes. -/
theorem setDt_completes (s : State) (b : Byte) :
    ∃ t, ((s.setDt b).advance 2).complete = .next t ∧ t.result = some .ok ∧ t.pc = s.pc + 2 ∧ t.dt = b ∧
      Frame noReg [.delayTimer] noByte s t :=
  ⟨_, rfl, rfl, rfl, rfl, (((frame_refl _ _ _ s).setDt (.head _) b).advance 2).setResult .ok⟩

/-- Settles O58: the value of the timer, or of the register, is the one value written. -/
theorem delayTimerTransfers : Obligations.DelayTimerTransfers :=
  ⟨rowDecodes (.ldFromDt 0), rowDecodes (.ldToDt 0), fun s x =>
    ⟨setReg_completes s x s.dt, setDt_completes s (s.reg x)⟩⟩

/-! ## Waiting for a key (R205 to R207) -/

/-- The key that is down below which none is, is the picked one: a higher pick would leave it up, and a lower one is
up. -/
theorem keyPick_eq_some_of_lowest {keys : Vector Bool 16} {k : Fin 16} (down : keys[k] = true)
    (lowest : ∀ j < k, keys[j] = false) : keyPick keys = some k := by
  cases hp : keyPick keys with
  | none => simp [(keyPick_none_iff keys).mp hp k] at down
  | some p =>
    obtain ⟨pickDown, pickLowest⟩ := keyPick_some hp
    rcases lt_trichotomy p k with below | rfl | above
    · simp [lowest p below] at pickDown
    · rfl
    · simp [pickLowest k above] at down

/-- With a key down, there is a lowest one. -/
theorem exists_lowest_key {keys : Vector Bool 16} (h : ∃ k : Fin 16, keys[k] = true) :
    ∃ k : Fin 16, keys[k] = true ∧ ∀ j < k, keys[j] = false := by
  cases hp : keyPick keys with
  | none =>
    obtain ⟨k, down⟩ := h
    simp [(keyPick_none_iff keys).mp hp k] at down
  | some p => exact ⟨p, keyPick_some hp⟩

/-- Settles O59, by whether the pick finds a key. -/
theorem keyWaitStoresLowestKey : Obligations.KeyWaitStoresLowestKey := by
  refine ⟨rowDecodes (.ldKey 0), fun s x => ⟨fun k down lowest => ?_, fun up => ?_⟩⟩
  · rw [exec_ldKey_of_some x (keyPick_eq_some_of_lowest down lowest)]
    obtain ⟨t, ht, ok, pc, stored, frame⟩ := setReg_completes s x (narrow8 k.val)
    exact ⟨t, ht, ok, pc, stored ▸ narrow8_toNat_of_lt (by omega), frame⟩
  · exact exec_ldKey_of_none x ((keyPick_none_iff s.keys).mpr up)

/-- Settles O19: the step executes `Fx0A`, and a wait changes neither the memory nor `pc`. -/
theorem waitStepWritesNothing : Obligations.WaitStepWritesNothing := by
  intro s x running fetched
  rw [executorStep_of_ok running fetched]
  obtain ⟨stores, waits⟩ := keyWaitStoresLowestKey.2 s x
  refine ⟨fun up => ⟨waits up, fetched⟩, fun someDown => ?_⟩
  obtain ⟨k, down, lowest⟩ := exists_lowest_key someDown
  obtain ⟨t, ht, ok, pc, stored, -⟩ := stores k down lowest
  exact ⟨t, ht, ok, pc, k, down, stored⟩

end Sys2Proof.Machine

/-! # The timer unit and fatal errors (60_exceptions.md) -/

namespace Sys2Proof.Machine

/-! ## Ticks (R233 to R236) -/

theorem decay_zero_ticks (t : Byte) : decay 0 t = t := BitVec.eq_of_toNat_eq (decay_toNat 0 t)

/-- The clamp at 0 makes one tick and then `n` more the same as `n + 1` at once. -/
theorem decay_succ (n : Nat) (t : Byte) : decay (n + 1) t = decay n (decrement t) := by
  apply BitVec.eq_of_toNat_eq
  rw [decay_toNat, decay_toNat, decrement_toNat]
  omega

@[simp] theorem State.ticks_zero (s : State) : s.ticks 0 = s := by
  rw [State.ticks, decay_zero_ticks, decay_zero_ticks]

theorem State.ticks_succ (n : Nat) (s : State) : s.ticks (n + 1) = s.tick.ticks n := by
  simp only [State.ticks, State.tick, decay_succ]

theorem State.ticks_eq_iterate (n : Nat) (s : State) : s.ticks n = State.tick^[n] s := by
  induction n generalizing s with
  | zero => exact s.ticks_zero
  | succ n ih => rw [State.ticks_succ, ih, Function.iterate_succ_apply]

/-- Settles O30: the iteration by induction on `n`, the values from those of one tick and of `n`. -/
theorem ticksAreRepeatedTicks : Obligations.TicksAreRepeatedTicks := by
  intro n s
  refine ⟨s.ticks_eq_iterate n, decrement_toNat s.dt, decrement_toNat s.st, fun expired => ?_,
    fun _ => decay_toNat n s.dt⟩
  apply BitVec.eq_of_toNat_eq
  exact (decay_toNat n s.dt).trans (Nat.sub_eq_zero_of_le expired)

/-- While ticks are due, a step is one tick: one off each timer, stopping at 0, and nothing else (R233, R236). -/
theorem step_takes_tick {s : State} {n : Nat} (due : s.ticksDue = n + 1) :
    ∃ t, step s = .next t ∧ t = { s with dt := t.dt, st := t.st, ticksDue := n } ∧
      t.dt.toNat = s.dt.toNat - 1 ∧ t.st.toNat = s.st.toNat - 1 :=
  ⟨s.timerTurn n, step_timerTurn due, rfl, decrement_toNat s.dt, decrement_toNat s.st⟩

/-- A run goes on from the next state of its first step. -/
theorem core_run_succ {s t : State} (n : Nat) (h : core.step s = .next t) : core.run (n + 1) s = core.run n t := by
  simp only [Host.Core.run, h]

/-- The ticks due happen one by one, the timer unit keeping the turn until none is left. -/
theorem run_ticksDue {s : State} {n : Nat} (due : s.ticksDue = n) :
    core.run n s = .next { s.ticks n with ticksDue := 0 } := by
  induction n generalizing s with
  | zero =>
    have none_left : s = { s with ticksDue := 0 } := by rw [← due]
    rw [State.ticks_zero]
    exact congrArg Host.Outcome.next none_left
  | succ n ih =>
    calc core.run (n + 1) s
      _ = core.run n (s.timerTurn n) := core_run_succ n (step_timerTurn due)
      _ = .next { (s.timerTurn n).ticks n with ticksDue := 0 } := ih rfl
      _ = .next { s.ticks (n + 1) with ticksDue := 0 } := by rw [State.ticks_succ]; rfl

/-- Settles O12: the run is the update by as many ticks as are due. -/
theorem ticksDueAllHappen : Obligations.TicksDueAllHappen := fun s =>
  ⟨_, run_ticksDue rfl, rfl, decay_toNat s.ticksDue s.dt, decay_toNat s.ticksDue s.st⟩

/-! ## The timers across a step of the Executor (R32, R204, R208) -/

/-- `Fx15` leaves `Vx` in the delay timer. -/
theorem exec_ldToDt_dt {x : Reg} {s t : State} (h : exec (.ldToDt x) s = .next t) : t.dt = s.reg x := by
  cases h
  rfl

/-- No instruction writes `ST`, and none but `Fx15` writes `DT`. -/
theorem exec_timers {i : Instr} {s t : State} (h : exec i s = .next t) :
    t.st = s.st ∧ (t.dt = s.dt ∨ ∃ x, i = .ldToDt x ∧ t.dt = s.reg x) := by
  obtain ⟨sound, delay⟩ := timerWritersOnly i s t h
  refine ⟨sound, or_iff_not_imp_left.mpr fun changed => ?_⟩
  obtain ⟨x, rfl⟩ := delay changed
  exact ⟨x, rfl, exec_ldToDt_dt h⟩

/-- Raising leaves the timers, whether the error is new or returned again, and an instruction writes `DT` alone, by
`Fx15`. -/
theorem executorStep_timers {s t : State} (h : executorStep s = .next t) :
    t.st = s.st ∧ (t.dt = s.dt ∨ ∃ x, fetchDecode s = .ok (.ldToDt x) ∧ t.dt = s.reg x) := by
  rcases executorStep_cases h with ⟨e, -, rfl⟩ | ⟨e, -, -, rfl⟩ | ⟨i, -, fetched, ht⟩
  · exact ⟨rfl, .inl rfl⟩
  · exact ⟨rfl, .inl rfl⟩
  · obtain ⟨sound, kept | ⟨x, rfl, written⟩⟩ := exec_timers ht
    · exact ⟨sound, .inl kept⟩
    · exact ⟨sound, .inr ⟨x, fetched, written⟩⟩

/-- Settles O11, by whose turn it is. -/
theorem tickIsOwnTransition : Obligations.TickIsOwnTransition := by
  intro s
  refine ⟨fun _ => step_takes_tick, fun turn => ⟨step_executor turn, rfl, rfl, fun t ht => ?_⟩⟩
  rw [step_executor turn] at ht
  exact executorStep_timers (s := s.admitHost) ht

/-! ## Fatal errors (R101, R222, R226, R230, R237) -/

/-- Settles O16: the Executor raises the error of the mode again, and a tick does not look at the mode. -/
theorem faultedStaysFaulted : Obligations.FaultedStaysFaulted := by
  intro s e faulted
  refine ⟨fun turn => ?_, fun _ => step_takes_tick⟩
  have again : step s = .next (s.admitHost.faultWith e) := (step_executor turn).trans (executorStep_of_faulted faulted)
  exact ⟨_, again, rfl, faulted.symm, rfl, rfl, rfl, rfl, rfl, rfl, rfl, rfl, rfl⟩

/-- An instruction that takes a running machine to `Faulted(e)` has raised `e` at its own `pc`: completing and waiting
leave the mode. -/
theorem exec_raised {i : Instr} {s t : State} {e : FatalError} (running : s.mode = .running)
    (h : exec i s = .next t) (faulted : t.mode = .faulted e) : t = s.faultWith e ∧ e.pc = s.pc := by
  rcases exec_cases h with ⟨-, mode, -⟩ | rfl | ⟨e', rfl, names⟩
  · simp [mode, running] at faulted
  · simp [running] at faulted
  · cases faulted
    exact ⟨rfl, names⟩

/-- Settles O18: a tick leaves the mode, so that the error comes from the fetch, the decoder or the instruction. -/
theorem raisingStepWritesOnlyMode : Obligations.RaisingStepWritesOnlyMode := by
  intro s t e running hst faulted
  rcases step_cases hst with ⟨n, -, rfl⟩ | ⟨turn, ⟨e', stuck, -⟩ | ⟨e', -, failed, rfl⟩ | ⟨i, -, -, ht⟩⟩
  · simp [running] at faulted
  · simp [running] at stuck
  · cases faulted
    exact ⟨turn, rfl, fetchDecode_error_pc failed⟩
  · exact ⟨turn, exec_raised running ht faulted⟩

end Sys2Proof.Machine

/-! # Reset and the ROM load (70_reset_and_hazards.md) -/

namespace Sys2Proof.Machine

/-! ## The ROM load (R264, R265) -/

/-- A ROM that fits between `PROG_BASE` and the end of the memory is written there, byte by byte. -/
theorem State.load_of_fits (s : State) {rom : List Byte} (h : rom.length ≤ Config.memSize - Config.progBase) :
    s.load rom = .next (s.setMem (s.mem.writeBytes Config.progBase rom)) := if_pos h

/-- A ROM that does not fit is refused with its length. -/
theorem State.load_of_too_long (s : State) {rom : List Byte} (h : Config.memSize - Config.progBase < rom.length) :
    s.load rom = .refused (.romTooLong rom.length) := if_neg h.not_ge

/-- Settles O9, by whether the ROM fits: the range of one that does lies inside the memory. -/
theorem loadPlacesRom : Obligations.LoadPlacesRom := by
  intro s rom hm
  refine ⟨fun fits => ?_, s.load_of_too_long⟩
  have inside : Config.progBase + rom.length ≤ Config.memSize := Nat.add_le_of_le_sub' (by decide) fits
  exact ⟨_, s.load_of_fits fits, Memory.wf_writeBytes rom hm inside, rfl, rfl,
    (frame_refl _ _ _ s).writeBytes fun _ => id, Memory.read_writeBytes_inside hm inside⟩

/-! ## The state after reset (R261 to R263) -/

theorem State.reset_reg (r : Reg) : State.reset.reg r = 0 := Vector.getElem_replicate r.isLt

theorem State.reset_stack (j : Fin 16) : State.reset.stack[j] = 0 := Vector.getElem_replicate j.isLt

/-- The display after reset is the one that `clear()` leaves. -/
theorem State.reset_pixel (x : Fin 64) (y : Fin 32) : State.reset.pixel x y = false := Display.pixel_clear x y

/-- Settles O7, register by register. -/
theorem resetRegisters : Obligations.ResetRegisters :=
  ⟨rfl, State.reset_reg, rfl, rfl, State.reset_stack, rfl, rfl, State.reset_pixel, rfl⟩

/-- Each glyph of the font stands at the address that `Fx29` computes for its digit (R182, R262). -/
theorem State.reset_readBytes_glyph (g : Fin 16) :
    State.reset.mem.readBytes (Config.fontBase + g.val * Config.glyphBytes) Config.glyphBytes =
      Config.fontGlyphs[g.val] := by
  decide +revert

/-- Outside the font, an unlisted address reads as zero (R263). -/
theorem Memory.unlisted_of_ge {a : Nat} (h : Config.fontBase + Config.fontData.length ≤ a) :
    Memory.unlisted a = 0 := by
  rw [Memory.unlisted, if_pos (Nat.le_of_add_right_le h), List.getD_eq_default _ _ (Nat.le_sub_of_add_le' h)]

/-- Settles O8: glyph by glyph, and past the font nothing is listed. -/
theorem resetMemory : Obligations.ResetMemory := by
  have glyph := State.reset_readBytes_glyph
  exact ⟨glyph 0x0, glyph 0x1, glyph 0x2, glyph 0x3, glyph 0x4, glyph 0x5, glyph 0x6, glyph 0x7, glyph 0x8, glyph 0x9,
    glyph 0xA, glyph 0xB, glyph 0xC, glyph 0xD, glyph 0xE, glyph 0xF, fun _ => Memory.unlisted_of_ge⟩

/-- Settles O20: nothing is listed, and neither the mode nor the result holds an error. -/
theorem resetSatisfiesInvariant : Obligations.ResetSatisfiesInvariant where
  memory := Memory.wf_nil
  soundTimer := rfl
  faulted _ := iff_of_false nofun nofun

end Sys2Proof.Machine
